-- ==== Sys2Proof/Word.lean ====
section
/-! DEFINITION. The block's value types: bytes, nibbles, the frame buffers, the opaque timestamp and the Reading record
(spec/00_scope.md R8, R9; spec/10_state.md R14, R20). Plain data only; nothing here computes. -/

namespace Sys2Proof

/-- A byte of a line or of the NibbleBuffer (R9, R41). -/
abbrev Byte := BitVec 8

/-- A 4-bit nibble, 0..15 (R8, GLOSSARY "Nibble"). -/
abbrev Nibble := BitVec 4

/-- A 16-bit sensor ID (R8, R49). -/
abbrev SensorId := BitVec 16

/-- The 80-bit frame word W of R45. -/
abbrev FrameWord := BitVec 80

/-- A PacketFrame as the decoder takes it: the values in 0..15 of the characters h[0..19], in text order (R45, R67). Its length
is the parameter FRAME_HEX_LEN of R6, 20, which `Instr.wf` checks. -/
abbrev PacketFrame := List Nibble

/-- The NibbleBuffer: the BYTE_COUNT = 10 bytes unpacked from a PacketFrame (R20, R58). It exists only within one step. -/
abbrev NibbleBuffer := List Byte

/-- The capture time of a line. R6 and R67 make it an opaque type that no rule compares, orders or inspects.
DESIGN CHOICE (log entry 3): it is held as a numbered token, so that a state is plain data; no definition of the
model reads the number. -/
structure Timestamp where
  token : Nat
  deriving DecidableEq, Repr, Inhabited

/-- The decoded fields of a reading, with the widths of R14. The timestamp is no part of it. -/
structure Reading where
  rollingCode    : BitVec 8
  rainTotalMilli : BitVec 21
  rainRateMilli  : BitVec 18
  deriving DecidableEq, Repr, Inhabited

end Sys2Proof
end

