-- ==== Sys2Proof/Config.lean ====
section
/-! DEFINITION. What an implementation of the block fixes, and what the spec leaves free: the parameter record of
spec/00_scope.md Table R6 with the constraints of R7, the open parameter formatTimestamp, and the free value of
previous_reading after RST. The parameters' VALUES stand in Sys2Proof/Machine/Parameters.lean. -/

namespace Sys2Proof

/-- The parameters of Table R6 that are values, one field each. The two other rows: Timestamp is a type, and formatTimestamp is
an argument of its own of the log text, by default `Config.formatTimestamp`. -/
structure Params where
  /-- FRAME_TAG: the bytes that open a frame line. -/
  frameTag     : List Byte
  /-- FRAME_HEX_LEN: the hex characters in a PacketFrame. -/
  frameHexLen  : Nat
  /-- NIBBLE_COUNT: the nibbles in the NibbleBuffer. -/
  nibbleCount  : Nat
  /-- BYTE_COUNT: the bytes in the NibbleBuffer. -/
  byteCount    : Nat
  /-- SENSOR_ID_RAIN: the only supported sensor ID. -/
  sensorIdRain : SensorId
  /-- SKIP_TRIGGER: the run length at which suppression starts. -/
  skipTrigger  : Nat
  /-- SKIP_COUNT: the length of one suppression cycle. -/
  skipCount    : Nat
  /-- FIXED_SCALE: the fixed-point divisor of the rain fields. -/
  fixedScale   : Nat
  /-- RUN_LEN_SAT: `none` is the unbounded run-length counter of the reference model, `some m` saturates it at m (R15). -/
  runLenSat    : Option Nat
  deriving DecidableEq, Repr

/-- The constraints of R7 on a configuration. -/
abbrev Params.Valid (p : Params) : Prop :=
  1 ≤ p.skipCount ∧ (∀ m ∈ p.runLenSat, p.skipTrigger ≤ m) ∧ p.fixedScale = 1000

/-- The three lengths agree: two nibbles to a byte, one character to a nibble, and nibble 19 exists. DEDUCED (log entry 11) from
R29, R30 and R47: R7 does not list it. -/
abbrev Params.LengthsAgree (p : Params) : Prop :=
  p.frameHexLen = p.nibbleCount ∧ p.nibbleCount = 2 * p.byteCount ∧ 20 ≤ p.nibbleCount

/-- The bytes of a frame line before its trailing whitespace: the tag and the hex characters (Table R43), 25. -/
def Params.frameLen (p : Params) : Nat := p.frameTag.length + p.frameHexLen

/-- formatTimestamp, the OPEN parameter of R6 (decision D17): how the log sink renders a timestamp. It has no body:
a statement about log text holds for every rendering. It gives the ASCII bytes of the text. -/
opaque Config.formatTimestamp : Timestamp → List Byte

/-- FREE VALUE (log entry 2): what previous_reading holds after the n-th RST. R102 says "any value", and U1 of
spec/93_implementation_defined.md treats it so. It has no body. -/
opaque Config.freeReading : Nat → Reading

end Sys2Proof
end

