-- ==== Sys2Proof/Machine/Parameters.lean ====
section
/-! DEFINITION. The values of the parameters of spec/00_scope.md Table R6. R6: the spec treats the document's values as
normative, and a reader who has other evidence changes the parameter, not the rules. Every definition that a parameter
bears on takes the record as an argument, in the framer, the decoder and the encoder with these values as its default. -/

namespace Sys2Proof

/-- The configuration of the machine: Table R6 at the source's values, the run-length counter unbounded. -/
def Config.params : Params where
  frameTag     := [0x4F, 0x53, 0x56, 0x33, 0x20]
  frameHexLen  := 20
  nibbleCount  := 20
  byteCount    := 10
  sensorIdRain := 0x2914
  skipTrigger  := 10
  skipCount    := 919
  fixedScale   := 1000
  runLenSat    := none

end Sys2Proof
end

