-- ==== Sys2Proof/Machine/Framing.lean ====
section
/-! DEFINITION. Character classes and the line classifier: WS, upper-case hex characters, the frame-line format, CLASSIFY
and its bounded streaming form (spec/30_encoding.md R41 to R45, spec/41_framing.md R70, R76). -/

namespace Sys2Proof.Machine

/-- Membership in the whitespace set WS of R42. -/
def isWS (c : Byte) : Bool :=
  c = 0x09 || c = 0x0A || c = 0x0B || c = 0x0C || c = 0x0D || c = 0x20

/-- The upper-case hex characters of R44: '0'..'9' and 'A'..'F'. -/
def isUpperHex (c : Byte) : Bool :=
  (decide (0x30 ≤ c) && decide (c ≤ 0x39)) || (decide (0x41 ≤ c) && decide (c ≤ 0x46))

/-- hexval of R44. It is applied only to bytes for which `isUpperHex` holds. -/
def hexval (c : Byte) : Nibble :=
  if c ≤ 0x39 then (c - 0x30).setWidth 4 else (c - 0x37).setWidth 4

/-- The upper-case hex character that spells a nibble: the inverse of `hexval` (R44). -/
def hexChar (n : Nibble) : Byte :=
  if n ≤ 9 then n.setWidth 8 + 0x30 else n.setWidth 8 + 0x37

/-- A blank line: empty, or every byte in WS (R54, class 1). -/
def isBlank (line : List Byte) : Bool :=
  line.all isWS

/-- The frame-line format of R43: (a) the length, (b) the tag at byte 0, (c) the hex characters, then only WS. The offsets 5 and
25 of Table R43 are the tag's length and `Params.frameLen`. -/
def isFrameLine (line : List Byte) (p : Params := Config.params) : Bool :=
  decide (p.frameLen ≤ line.length) && decide (line.take p.frameTag.length = p.frameTag)
    && ((line.drop p.frameTag.length).take p.frameHexLen).all isUpperHex && (line.drop p.frameLen).all isWS

/-- The values of the characters h[0..19] = line[5..24] of a frame line (R45, R73). -/
def packetFrame (line : List Byte) (p : Params := Config.params) : PacketFrame :=
  (List.range p.frameHexLen).map fun k => hexval (line.getD (p.frameTag.length + k) 0)

/-- What CLASSIFY answers (R70). -/
inductive LineClass where
  | blank
  | nonframe
  | frame (h : PacketFrame)
  deriving DecidableEq, Repr

/-- CLASSIFY, test by test in the order of R70's pseudocode. -/
def classify (line : List Byte) (p : Params := Config.params) : LineClass :=
  if line.all isWS then .blank
  else if line.length < p.frameLen then .nonframe
  else if line.take p.frameTag.length ≠ p.frameTag then .nonframe
  else if ¬ ((line.drop p.frameTag.length).take p.frameHexLen).all isUpperHex then .nonframe
  else if ¬ (line.drop p.frameLen).all isWS then .nonframe
  else .frame (packetFrame line p)

/-! ### The bounded streaming classifier of R76 -/

/-- What a streaming classifier keeps of a line, whatever its length (R76): the first 25 bytes (`Params.frameLen`) and three
bits. -/
structure LineScan where
  buffer  : List Byte
  /-- every byte so far is in WS -/
  allWS   : Bool
  /-- every byte after the first 25 is in WS -/
  laterWS : Bool
  /-- the line so far is shorter than 25 bytes -/
  short   : Bool
  deriving DecidableEq, Repr

/-- The scan before the first byte. -/
def scanStart (p : Params := Config.params) : LineScan := ⟨[], true, true, decide (0 < p.frameLen)⟩

/-- The scan takes one byte of the line: into the buffer while it has room, else into the status bits only. -/
def scanByte (p : Params) (q : LineScan) (c : Byte) : LineScan :=
  if q.buffer.length < p.frameLen then
    { buffer := q.buffer ++ [c], allWS := q.allWS && isWS c, laterWS := q.laterWS,
      short := decide (q.buffer.length + 1 < p.frameLen) }
  else
    { q with allWS := q.allWS && isWS c, laterWS := q.laterWS && isWS c }

/-- The class read off the 25-byte buffer and the three bits. -/
def scanClass (q : LineScan) (p : Params := Config.params) : LineClass :=
  if q.allWS then .blank
  else if q.short then .nonframe
  else if q.buffer.take p.frameTag.length ≠ p.frameTag then .nonframe
  else if ¬ (q.buffer.drop p.frameTag.length).all isUpperHex then .nonframe
  else if ¬ q.laterWS then .nonframe
  else .frame (packetFrame q.buffer p)

/-- The streaming classifier of R76 over a whole line. -/
def streamClassify (line : List Byte) (p : Params := Config.params) : LineClass :=
  scanClass (line.foldl (scanByte p) (scanStart p)) p

end Sys2Proof.Machine
end

