-- ==== Sys2Proof/Machine/Operands.lean ====
section
/-! DEFINITION. The decoder's operand forms: UNPACK, NIB, the frame word W, the field extractors and the checksum
(spec/20_memory.md R29 to R32, spec/30_encoding.md R45 to R53, spec/40_decoder.md R58 to R65). Every sum is exact over
the naturals and narrowed at the end (R11, R69). -/

namespace Sys2Proof.Machine

/-- UNPACK (R58): big-endian hex decoding of each character pair, the first character the high nibble. -/
def unpack (h : PacketFrame) (p : Params := Config.params) : NibbleBuffer :=
  (List.range p.byteCount).map fun k => h.getD (2 * k) 0 ++ h.getD (2 * k + 1) 0

/-- NIB(i) for i < NIBBLE_COUNT (R59): the nibble swap, the low half of byte i/2 for even i and the high half for odd i. "No
rule uses an index outside 0..19" (R59); beyond the buffer it answers 0 (log entry 11). -/
def nib (b : NibbleBuffer) (i : Nat) (p : Params := Config.params) : Nibble :=
  if p.nibbleCount ≤ i then 0
  else if i % 2 = 0 then (b.getD (i / 2) 0).extractLsb' 0 4 else (b.getD (i / 2) 0).extractLsb' 4 4

/-- SENSOR_ID (R49, R60): nibbles 1 to 4, nibble 1 most significant. -/
def sensorId (b : NibbleBuffer) (p : Params := Config.params) : SensorId :=
  ((nib b 1 p).setWidth 16 <<< 12) ||| ((nib b 2 p).setWidth 16 <<< 8) ||| ((nib b 3 p).setWidth 16 <<< 4)
    ||| (nib b 4 p).setWidth 16

/-- IS_SUPPORTED (R60): exact 16-bit equality with SENSOR_ID_RAIN. -/
def isSupported (b : NibbleBuffer) (p : Params := Config.params) : Bool :=
  decide (sensorId b p = p.sensorIdRain)

/-- ROLLING_CODE (R50, R61): nibble 6 high, nibble 7 low. -/
def rollingCode (b : NibbleBuffer) (p : Params := Config.params) : BitVec 8 :=
  ((nib b 6 p).setWidth 8 <<< 4) ||| (nib b 7 p).setWidth 8

/-- The exact weighted sum of RAIN_RATE (R51, R62); digits above 9 are weighted as they stand (R65). -/
def rainRateSum (b : NibbleBuffer) (p : Params := Config.params) : Nat :=
  (nib b 8 p).toNat + 10 * (nib b 9 p).toNat + 100 * (nib b 10 p).toNat + 1000 * (nib b 11 p).toNat
    + 10000 * (nib b 12 p).toNat

/-- RAIN_RATE (R51, R62), 18 bits. -/
def rainRate (b : NibbleBuffer) (p : Params := Config.params) : BitVec 18 := BitVec.ofNat 18 (rainRateSum b p)

/-- The exact weighted sum of RAIN_TOTAL (R52, R63). -/
def rainTotalSum (b : NibbleBuffer) (p : Params := Config.params) : Nat :=
  (nib b 13 p).toNat + 10 * (nib b 14 p).toNat + 100 * (nib b 15 p).toNat + 1000 * (nib b 16 p).toNat
    + 10000 * (nib b 17 p).toNat + 100000 * (nib b 18 p).toNat

/-- RAIN_TOTAL (R52, R63), 21 bits. -/
def rainTotal (b : NibbleBuffer) (p : Params := Config.params) : BitVec 21 := BitVec.ofNat 21 (rainTotalSum b p)

/-- The three extractors together: the fields of a supported frame (R66). -/
def fieldsOf (b : NibbleBuffer) (p : Params := Config.params) : Reading where
  rollingCode    := rollingCode b p
  rainTotalMilli := rainTotal b p
  rainRateMilli  := rainRate b p

/-- The indexes of the nibbles the checksum sums: 1 to 18 inclusive (R64, Table R47). -/
def summedNibbles : List Nat := [1, 2, 3, 4, 5, 6, 7, 8, 9, 10, 11, 12, 13, 14, 15, 16, 17, 18]

/-- The exact sum of nibbles 1 to 18 (R64), 0..270. -/
def checksumSum (b : NibbleBuffer) (p : Params := Config.params) : Nat :=
  (summedNibbles.map fun i => (nib b i p).toNat).sum

/-- What CHECKSUM answers (R64). -/
structure Checksum where
  /-- checksum_field, the transmitted nibble -/
  field    : Nibble
  /-- computed_checksum -/
  computed : Nibble
  ok       : Bool
  deriving DecidableEq, Repr

/-- computed_checksum (R64): the sum of nibbles 1 to 18 modulo 16. -/
def computedChecksum (b : NibbleBuffer) (p : Params := Config.params) : Nibble := BitVec.ofNat 4 (checksumSum b p % 16)

/-- CHECKSUM (R64). -/
def checksum (b : NibbleBuffer) (p : Params := Config.params) : Checksum where
  field    := nib b 19 p
  computed := computedChecksum b p
  ok       := decide (computedChecksum b p = nib b 19 p)

/-- The frame word W of R45: the 20 hex digits read as one number, in text order, the first one most significant. -/
def frameWord (h : PacketFrame) : FrameWord :=
  BitVec.ofNat 80 ((List.range 20).foldl (fun w k => 16 * w + (h.getD k 0).toNat) 0)

/-- The PacketFrame that spells a frame word: value k is W[79-4k : 76-4k] (R45). -/
def ofFrameWord (w : FrameWord) : PacketFrame :=
  (List.range 20).map fun k => w.extractLsb' (76 - 4 * k) 4

/-- The PacketFrame re-spelt with nibble i replaced by v: nibble i is the character at position i XOR 1 (R31). -/
def respell (h : PacketFrame) (i : Nat) (v : Nibble) : PacketFrame := h.set (i ^^^ 1) v

end Sys2Proof.Machine
end

