-- ==== Sys2Proof/Syntax.lean ====
section
/-! DEFINITION. The input transactions of the block and its instructions: one constructor of `Instr` per row of
spec/opcode_table.json (the block's "instructions" are its input transactions, its "opcodes" the classes of R54). -/

namespace Sys2Proof

/-- A transaction on an input port (R5): a line with its capture time on the LINE port (R21), or RST (R22). The line
comes with its terminating line feed removed (R41). -/
inductive Transaction where
  | line (bytes : List Byte) (ts : Timestamp)
  | rst
  deriving DecidableEq, Repr

/-- The rows of the opcode table. A discarded line keeps its bytes, and a frame keeps its PacketFrame and its
trailing whitespace, so that no byte of an encoding is lost by decoding. -/
inductive Instr where
  /-- Row RST: a transaction on the reset port. -/
  | rst
  /-- Row LINE_BLANK: an empty or whitespace-only line. -/
  | lineBlank (line : List Byte) (ts : Timestamp)
  /-- Row LINE_NONFRAME: a line that is neither blank nor a frame line. -/
  | lineNonframe (line : List Byte) (ts : Timestamp)
  /-- Row FRAME_SENSOR_2914: a frame line whose sensor_id is SENSOR_ID_RAIN. -/
  | frameSensor2914 (h : PacketFrame) (trail : List Byte) (ts : Timestamp)
  /-- Row FRAME_UNRECOGNIZED: a frame line with any other sensor_id. -/
  | frameUnrecognized (h : PacketFrame) (trail : List Byte) (ts : Timestamp)
  deriving DecidableEq, Repr

end Sys2Proof
end

