-- ==== Sys2Proof/WellFormed.lean ====
section
/-! DEFINITION. When a term of `Instr` stands for a transaction of its class (spec/30_encoding.md R54). -/

namespace Sys2Proof

open Machine

/-- The check of each class of R54: a blank line is blank, a non-frame line is neither blank nor of the format R43, a
PacketFrame has FRAME_HEX_LEN values, a frame's trailing bytes are all WS, and its sensor_id is or is not SENSOR_ID_RAIN. -/
def Instr.wf (i : Instr) (p : Params := Config.params) : Bool :=
  match i with
  | .rst => true
  | .lineBlank line _ => isBlank line
  | .lineNonframe line _ => !isBlank line && !isFrameLine line p
  | .frameSensor2914 h trail _ => decide (h.length = p.frameHexLen) && trail.all isWS && isSupported (unpack h p) p
  | .frameUnrecognized h trail _ => decide (h.length = p.frameHexLen) && trail.all isWS && !isSupported (unpack h p) p

end Sys2Proof
end

