-- ==== Sys2Proof/Decode.lean ====
section
/-! DEFINITION. From a transaction to its instruction and back: the class map of spec/30_encoding.md R54 as a total
decoder, the encoder written from the same tables (R43, R44), and the opcode table's numbering of a row's bits. -/

namespace Sys2Proof

open Machine

/-- The decoder: CLASSIFY (R70), then the sensor test on a frame (R54, classes 3 and 4). It is total: "Every byte sequence
gets a class" (R70), and the class LINE_NONFRAME is the name under which a malformed line is turned away. -/
def decode (t : Transaction) (p : Params := Config.params) : Instr :=
  match t with
  | .rst => .rst
  | .line bytes ts =>
    match classify bytes p with
    | .blank => .lineBlank bytes ts
    | .nonframe => .lineNonframe bytes ts
    | .frame h =>
      if isSupported (unpack h p) p then .frameSensor2914 h (bytes.drop p.frameLen) ts
      else .frameUnrecognized h (bytes.drop p.frameLen) ts

/-- The bytes of a frame line (Table R43): the tag, the hex characters, the trailing whitespace. -/
def frameBytes (h : PacketFrame) (trail : List Byte) (p : Params := Config.params) : List Byte :=
  p.frameTag ++ h.map hexChar ++ trail

/-- The encoder: the transaction that a well-formed instruction stands for. -/
def encode (i : Instr) (p : Params := Config.params) : Transaction :=
  match i with
  | .rst => .rst
  | .lineBlank line ts => .line line ts
  | .lineNonframe line ts => .line line ts
  | .frameSensor2914 h trail ts => .line (frameBytes h trail p) ts
  | .frameUnrecognized h trail ts => .line (frameBytes h trail p) ts

/-- The bytes of a line given as one number, byte k in bits 8k+7..8k (log entry 6). -/
def rawLineBytes : Nat → Nat → List Byte
  | 0, _ => []
  | n + 1, w => BitVec.ofNat 8 w :: rawLineBytes n (w / 256)

/-- The transaction whose bits the opcode table numbers as w (log entry 6). 80 bits are the frame word W of a frame80 row
(the table's match and mask are written over W, R45): a frame line with no trailing whitespace. Any other whole number of
bytes is a raw line. A single bit is the strobe of the RST port, which has no bits in the table. -/
def tableTransaction (nbits w : Nat) : Option Transaction :=
  if nbits = 80 then some (.line (frameBytes (ofFrameWord (BitVec.ofNat 80 w)) []) ⟨0⟩)
  else if nbits = 1 then some .rst
  else if nbits % 8 = 0 then some (.line (rawLineBytes (nbits / 8) w) ⟨0⟩)
  else none

/-- The instruction the decoder reads from a row's bits, numbered as spec/opcode_table.json numbers them. -/
def decodeTableWord (nbits w : Nat) : Option Instr :=
  (tableTransaction nbits w).map decode

end Sys2Proof
end

