-- ==== Sys2Proof/Machine/State.lean ====
section
/-! DEFINITION. The state of the block (spec/10_state.md): the four registers of the DedupState, the input ports with what
the host has yet to present, the LOG and DIAG ports with what they have delivered; and the outcomes other than a next
state. -/

namespace Sys2Proof.Machine

/-- The DedupState, the block's only persistent state (R12). -/
structure DedupState where
  /-- `prev_valid`, 1 bit (R13) -/
  prevValid       : Bool
  /-- `previous_reading` (R14) -/
  previousReading : Reading
  /-- `identical_run_length`, an unbounded natural in the reference model (R15) -/
  runLen          : Nat
  /-- `skip_cycle_counter`, 0..SKIP_COUNT-1 (R16) -/
  skipCtr         : Nat
  deriving DecidableEq, Repr

/-- The `status` field of a DiagRecord (R24). -/
inductive DiagStatus where
  | ok
  | checksumError
  deriving DecidableEq, Repr

/-- A transaction on the DIAG output port: the eight fields of R24. -/
structure DiagRecord where
  status         : DiagStatus
  sensorId       : SensorId
  ts             : Timestamp
  rollingCode    : BitVec 8
  rainRateMilli  : BitVec 18
  rainTotalMilli : BitVec 21
  checksumTx     : Nibble
  checksumCalc   : Nibble
  deriving DecidableEq, Repr

/-- A transaction on the LOG output port: the four fields of R23. -/
structure LogRecord where
  ts             : Timestamp
  rollingCode    : BitVec 8
  rainTotalMilli : BitVec 21
  rainRateMilli  : BitVec 18
  deriving DecidableEq, Repr

/-- A record on one of the two output ports. -/
inductive PortRecord where
  | diag (r : DiagRecord)
  | log (r : LogRecord)
  deriving DecidableEq, Repr

/-- What the host brings to the block: a transaction on an input port (R21, R22), or one of the two reports of the line
source that are no transactions (R99, R100). -/
inductive HostEvent where
  | transaction (t : Transaction)
  | endOfStream
  | transportError
  deriving DecidableEq, Repr

/-- The state of the machine. The line buffer and the NibbleBuffer are no fields: they exist only within the step that
processes one line (R20). -/
structure State where
  /-- the DedupState (R12) -/
  dedup      : DedupState
  /-- the LINE and RST input ports: what the host has yet to present, next first (R38) -/
  input      : List HostEvent
  /-- the acknowledgements the log sink has yet to give on the LOG port (R23, R106) -/
  logAcks    : Nat
  /-- the LOG port: the record written and not yet acknowledged as durable; `none` is idle (R26, R106) -/
  logPending : Option LogRecord
  /-- what the output ports have delivered, oldest first: each DiagRecord handed over, each LogRecord durable (R38, R85) -/
  trace      : List PortRecord
  /-- how many free values have been drawn; the MODEL's own field, not the spec's (log entry 2) -/
  freeCount  : Nat
  deriving DecidableEq, Repr

/-- The reasons to stop with a fault: none. "A model has no fault outcome for any input line" (R91), and a log sink that
never acknowledges is a stuck state, not a fault (R106). -/
inductive Fault where
  deriving DecidableEq, Repr

/-- The reasons to refuse an instruction. -/
inductive Refusal where
  /-- Raised by `exec` alone, for an instruction that has no meaning yet. Safe: nothing is claimed of it. Every row of the
  opcode table has its meaning, so no arm raises it. -/
  | notModelled (mnemonic : String)
  deriving DecidableEq, Repr

/-- The state after the power-on RST (R26, R102): no previous reading, the counters zero, both ports idle. DESIGN CHOICE
(log entry 1): previous_reading, for which the spec gives no value, is zero. DESIGN CHOICE (log entries 2, 4, 5): the fields
of the environment and of the free values start empty. -/
def State.reset : State where
  dedup      := ⟨false, ⟨0, 0, 0⟩, 0, 0⟩
  input      := []
  logAcks    := 0
  logPending := none
  trace      := []
  freeCount  := 0

end Sys2Proof.Machine
end

