-- ==== Sys2Proof/Machine/Flags.lean ====
section
/-! DEFINITION. The block has no flags register (spec/10_state.md R19). This file holds the signals that live within one
step and the counter values they select: `equal` (spec/42_dedup.md R80), suppression mode and the counters (R81), `emit`
(R83). The parameters are an argument, as R6 and decision D5 say. -/

namespace Sys2Proof.Machine

/-- `equal` (R80): there is a previous reading and all three fields agree with it. -/
def equalBit (d : DedupState) (f : Reading) : Bool :=
  d.prevValid && decide (f.rollingCode = d.previousReading.rollingCode)
    && decide (f.rainTotalMilli = d.previousReading.rainTotalMilli)
    && decide (f.rainRateMilli = d.previousReading.rainRateMilli)

/-- The increment of the run-length counter: unbounded, or saturating at RUN_LEN_SAT (R15, R81). -/
def bumpRun (p : Params) (runLen : Nat) : Nat :=
  match p.runLenSat with
  | none => runLen + 1
  | some m => min (runLen + 1) m

/-- Suppression mode, a comparison with the incremented run length (R81). -/
def inSuppression (p : Params) (run' : Nat) : Bool := decide (p.skipTrigger ≤ run')

/-- The increment of the skip counter; the one that reaches SKIP_COUNT writes 0 (R16, R81). -/
def bumpSkip (p : Params) (skipCtr : Nat) : Nat :=
  if skipCtr + 1 = p.skipCount then 0 else skipCtr + 1

/-- run' of R81. -/
def nextRun (p : Params) (d : DedupState) (f : Reading) : Nat :=
  if equalBit d f then bumpRun p d.runLen else 0

/-- skip' of R81. -/
def nextSkip (p : Params) (d : DedupState) (f : Reading) : Nat :=
  if equalBit d f then
    if inSuppression p (nextRun p d f) then bumpSkip p d.skipCtr else d.skipCtr
  else 0

/-- `emit` of R83: a change, or a repeat below the trigger, or a repeat at which the skip counter is 0. -/
def emitBit (p : Params) (d : DedupState) (f : Reading) : Bool :=
  !equalBit d f || !inSuppression p (nextRun p d f) || decide (nextSkip p d f = 0)

end Sys2Proof.Machine
end

