-- ==== Sys2Proof/Machine/Ops.lean ====
section
/-! DEFINITION. The named operations of the machine: reading and writing its ports and registers, DECODE
(spec/40_decoder.md R66), the dispatch on its outcome (spec/42_dedup.md R77 to R85), RESET (spec/70_reset_and_hazards.md
R102), and what the block does while it accepts no transaction (R98, R100, R106). No exception is taken anywhere: "No
outcome is a trap, a fault or a halt" (spec/60_exceptions.md R91, R93). -/

namespace Sys2Proof.Machine

/-! ### Registers and ports -/

/-- Write the DedupState. -/
def State.withDedup (s : State) (d : DedupState) : State := { s with dedup := d }

/-- Set what the host has yet to present. -/
def State.withInput (s : State) (l : List HostEvent) : State := { s with input := l }

/-- DiagWrite (R10): hand one record to the diagnostic sink. Nothing waits for it (R24, R106). -/
def State.diagWrite (s : State) (r : DiagRecord) : State := { s with trace := s.trace ++ [.diag r] }

/-- LogWrite (R10): put one record on the LOG port, where it waits for the sink's acknowledgement (R106). -/
def State.logWrite (s : State) (r : LogRecord) : State := { s with logPending := some r }

/-- The sink acknowledges the record on the LOG port: it is durable, and the port is idle (R23, R39). -/
def State.logDurable (s : State) : State :=
  match s.logPending with
  | none => s
  | some r => { s with trace := s.trace ++ [.log r], logPending := none }

/-- The record of a PortRecord on the DIAG port. -/
def PortRecord.diag? : PortRecord → Option DiagRecord
  | .diag r => some r
  | .log _ => none

/-- The record of a PortRecord on the LOG port. -/
def PortRecord.log? : PortRecord → Option LogRecord
  | .diag _ => none
  | .log r => some r

/-- Every record the diagnostic sink has received, oldest first. -/
def State.diagRecords (s : State) : List DiagRecord := s.trace.filterMap PortRecord.diag?

/-- Every record the log sink holds durably, oldest first: what survives an abrupt stop (R98). -/
def State.durableLog (s : State) : List LogRecord := s.trace.filterMap PortRecord.log?

/-! ### DECODE -/

/-- The three outcomes of DECODE (R66). -/
inductive DecodeOutcome where
  | success (f : Reading) (ts : Timestamp) (ckTx ckCalc : Nibble)
  | checksumFailure (f : Reading) (ts : Timestamp) (ckTx ckCalc : Nibble)
  | unrecognizedSensor
  deriving DecidableEq, Repr

/-- DECODE (R66): the sensor test first, then the fields and the checksum. It reads no state (R67). -/
def decodeFrame (h : PacketFrame) (ts : Timestamp) (p : Params := Config.params) : DecodeOutcome :=
  let b := unpack h p
  if ¬ isSupported b p then .unrecognizedSensor
  else
    let c := checksum b p
    if c.ok then .success (fieldsOf b p) ts c.field c.computed
    else .checksumFailure (fieldsOf b p) ts c.field c.computed

/-! ### The transition on an outcome -/

/-- The DiagRecord of a decoded frame (R82). -/
def diagRecord (p : Params) (st : DiagStatus) (f : Reading) (ts : Timestamp) (ckTx ckCalc : Nibble) : DiagRecord where
  status         := st
  sensorId       := p.sensorIdRain
  ts             := ts
  rollingCode    := f.rollingCode
  rainRateMilli  := f.rainRateMilli
  rainTotalMilli := f.rainTotalMilli
  checksumTx     := ckTx
  checksumCalc   := ckCalc

/-- The LogRecord of a reading (R83). -/
def logRecord (f : Reading) (ts : Timestamp) : LogRecord where
  ts             := ts
  rollingCode    := f.rollingCode
  rainTotalMilli := f.rainTotalMilli
  rainRateMilli  := f.rainRateMilli

/-- The DedupState after a Success: the counters of R81 and the baseline of R84. -/
def successDedup (p : Params) (d : DedupState) (f : Reading) : DedupState where
  prevValid       := true
  previousReading := f
  runLen          := nextRun p d f
  skipCtr         := nextSkip p d f

/-- What a LINE step answers (R77): the next DedupState, at most one DiagRecord, at most one LogRecord. -/
structure StepResult where
  dedup : DedupState
  diag  : Option DiagRecord
  log   : Option LogRecord
  deriving DecidableEq, Repr

/-- The case distinction of R77 on the decoder's outcome: R78, R79, and SUCCESS of R80 to R85. -/
def onOutcome (p : Params) (d : DedupState) : DecodeOutcome → StepResult
  | .unrecognizedSensor => ⟨d, none, none⟩
  | .checksumFailure f ts ckTx ckCalc => ⟨d, some (diagRecord p .checksumError f ts ckTx ckCalc), none⟩
  | .success f ts ckTx ckCalc =>
    ⟨successDedup p d f, some (diagRecord p .ok f ts ckTx ckCalc),
      if emitBit p d f then some (logRecord f ts) else none⟩

/-- STEP_LINE (R77), the whole transition on one line as the spec writes it. -/
def stepLine (p : Params) (d : DedupState) (line : List Byte) (ts : Timestamp) : StepResult :=
  match classify line p with
  | .blank => ⟨d, none, none⟩
  | .nonframe => ⟨d, none, none⟩
  | .frame h => onOutcome p d (decodeFrame h ts p)

/-- Give a step's result to the registers and the ports, in the order of R85: the state, the DIAG record, the LOG record. -/
def State.applyResult (s : State) (r : StepResult) : State :=
  let s₁ := s.withDedup r.dedup
  let s₂ := match r.diag with
    | none => s₁
    | some x => s₁.diagWrite x
  match r.log with
  | none => s₂
  | some x => s₂.logWrite x

/-- RESET (R102): prev_valid and both counters cleared; previous_reading is a free value (log entry 2). -/
def State.resetDedup (s : State) : State :=
  { s with
    dedup := ⟨false, Config.freeReading s.freeCount, 0, 0⟩
    freeCount := s.freeCount + 1 }

/-- The transition on a transaction, at any configuration (R5): STEP_LINE (R77) or RESET (R102). -/
def State.transition (s : State) (p : Params) : Transaction → State
  | .rst => s.resetDedup
  | .line bytes ts => s.applyResult (stepLine p s.dedup bytes ts)

/-! ### Accepting a transaction -/

/-- The transaction the block accepts now, with the state in which it runs. The block accepts one only while the LOG port is
idle (R21, R106); consuming it removes it from the source (R36). -/
def fetch (s : State) : Option (Transaction × State) :=
  match s.logPending, s.input with
  | none, .transaction t :: rest => some (t, s.withInput rest)
  | _, _ => none

/-- What the block does when it accepts no transaction. Held by an unacknowledged LogRecord, it goes on when the sink
acknowledges, and stays as it is for ever if the sink never does (R106). Idle, it holds its state (R98). A report of the
line source is no transaction: it is taken off the source and changes nothing else (R99, R100). -/
def waitStep (s : State) : State :=
  match s.logPending, s.logAcks, s.input with
  | some _, 0, _ => s
  | some _, n + 1, _ => { s with logAcks := n }.logDurable
  | none, _, [] => s
  | none, _, .transaction _ :: _ => s
  | none, _, .endOfStream :: rest => s.withInput rest
  | none, _, .transportError :: rest => s.withInput rest

/-- Make t the next transaction the block accepts: a record still on the LOG port becomes durable, so that the port is
idle, and t stands first at the input. -/
def presentNext (t : Transaction) (s : State) : State :=
  s.logDurable.withInput (.transaction t :: s.input)

/-! ### A stream of lines -/

/-- The DedupState after a sequence of lines, each step seeing the state the one before it left (R38). -/
def runLines (p : Params) (d : DedupState) : List (List Byte × Timestamp) → DedupState
  | [] => d
  | l :: ls => runLines p (stepLine p d l.1 l.2).dedup ls

/-- The fields of a line whose outcome is Success (R66, R73); `none` for every other line. -/
def lineSuccess (line : List Byte) (ts : Timestamp) (p : Params := Config.params) : Option Reading :=
  match classify line p with
  | .blank => none
  | .nonframe => none
  | .frame h =>
    match decodeFrame h ts p with
    | .success f _ _ _ => some f
    | .checksumFailure _ _ _ _ => none
    | .unrecognizedSensor => none

/-- How many lines of a sequence end in Success. -/
def successCount (ls : List (List Byte × Timestamp)) (p : Params := Config.params) : Nat :=
  (ls.filter fun l => (lineSuccess l.1 l.2 p).isSome).length

/-- The records a sequence of lines emits, in port order, DIAG before LOG within a step (R38, R85). -/
def lineRecords (p : Params) (d : DedupState) : List (List Byte × Timestamp) → List PortRecord
  | [] => []
  | l :: ls =>
    let r := stepLine p d l.1 l.2
    (r.diag.map PortRecord.diag).toList ++ (r.log.map PortRecord.log).toList ++ lineRecords p r.dedup ls

end Sys2Proof.Machine
end

