-- ==== Sys2Proof/Machine/Frame.lean ====
section
/-! DEFINITION. The meanings of the frame80 rows of the opcode table. -/

namespace Sys2Proof.Machine

/-- FRAME_SENSOR_2914: DECODE (spec/40_decoder.md R66), then the transition on its outcome (spec/42_dedup.md R79 to R85). The
trailing whitespace never changes the PacketFrame (spec/41_framing.md R73). -/
def execFrameSensor2914 (h : PacketFrame) (_trail : List Byte) (ts : Timestamp) (s : State) :
    Host.Outcome State Fault Refusal :=
  .next (s.applyResult (onOutcome Config.params s.dedup (decodeFrame h ts)))

/-- FRAME_UNRECOGNIZED (spec/42_dedup.md R78): no DedupState field is written and no record is emitted. -/
def execFrameUnrecognized (_h : PacketFrame) (_trail : List Byte) (_ts : Timestamp) (s : State) :
    Host.Outcome State Fault Refusal :=
  .next s

end Sys2Proof.Machine
end

