-- ==== Sys2Proof/Machine/RawLine.lean ====
section
/-! DEFINITION. The meanings of the rawline rows of the opcode table: the two classes of line that are discarded. -/

namespace Sys2Proof.Machine

/-- LINE_BLANK (spec/41_framing.md R71): "discard silently (no state change)". -/
def execLineBlank (_line : List Byte) (_ts : Timestamp) (s : State) : Host.Outcome State Fault Refusal :=
  .next s

/-- LINE_NONFRAME (spec/41_framing.md R72): "discard silently". -/
def execLineNonframe (_line : List Byte) (_ts : Timestamp) (s : State) : Host.Outcome State Fault Refusal :=
  .next s

end Sys2Proof.Machine
end

