-- ==== Sys2Proof/Machine/ResetPort.lean ====
section
/-! DEFINITION. The meaning of the port row of the opcode table. -/

namespace Sys2Proof.Machine

/-- RST (spec/70_reset_and_hazards.md R102): the DedupState goes to its reset values; no record is emitted. -/
def execRst (s : State) : Host.Outcome State Fault Refusal :=
  .next s.resetDedup

end Sys2Proof.Machine
end

