-- ==== Sys2Proof/Machine/Dispatch.lean ====
section
/-! DEFINITION. The meaning of every instruction, one arm per row of spec/opcode_table.json. -/

namespace Sys2Proof.Machine

def exec (i : Instr) (s : State) : Host.Outcome State Fault Refusal :=
  match i with
  | .rst => Sys2Proof.Machine.execRst s
  | .lineBlank line ts => Sys2Proof.Machine.execLineBlank line ts s
  | .lineNonframe line ts => Sys2Proof.Machine.execLineNonframe line ts s
  | .frameSensor2914 h trail ts => Sys2Proof.Machine.execFrameSensor2914 h trail ts s
  | .frameUnrecognized h trail ts => Sys2Proof.Machine.execFrameUnrecognized h trail ts s

end Sys2Proof.Machine
end

