-- ==== Sys2Proof/Machine/Step.lean ====
section
/-! DEFINITION. One step of the machine: accept a transaction, decode it and run it; or wait (spec/00_scope.md R5,
spec/20_memory.md R38, spec/70_reset_and_hazards.md R106). -/

namespace Sys2Proof.Machine

/-- One step. The wait for the acknowledgement of a LogRecord is a step of its own (log entry 4), so a transaction's step
of R5 is complete when the LOG port is idle again. -/
def step (s : State) : Host.Outcome State Fault Refusal :=
  match fetch s with
  | some (t, s') => exec (decode t) s'
  | none => .next (waitStep s)

/-- s with the transaction of a table row's bits presented next (log entry 6). Bits that stand for no transaction leave s
as it is. -/
def State.withFetchWord (s : State) (nbits w : Nat) : State :=
  match tableTransaction nbits w with
  | none => s
  | some t => presentNext t s

end Sys2Proof.Machine
end

