-- ==== Sys2Proof/Machine/Configured.lean ====
section
/-! DEFINITION. The reference model with its configuration as an argument: "the reference model takes each as a configuration
argument with that value" (spec/00_scope.md R6, R7). The types of `exec`, `step` and `core` leave no room for a configuration, so
those three are this machine at `Config.params`. -/

namespace Sys2Proof.Machine

/-- One step at configuration p: the transition on the transaction accepted, or the wait. -/
def stepWith (p : Params) (s : State) : Host.Outcome State Fault Refusal :=
  match fetch s with
  | some (t, s') => .next (s'.transition p t)
  | none => .next (waitStep s)

/-- The block at configuration p. The reset values of Table R26 do not depend on it. -/
def coreWith (p : Params) : Host.Core where
  State   := State
  Fault   := Fault
  Refusal := Refusal
  step    := stepWith p
  reset   := State.reset

end Sys2Proof.Machine
end

