-- ==== Sys2Proof/Machine/LogText.lean ====
section
/-! DEFINITION. The text the log sink renders (spec/42_dedup.md R86, R87), as ASCII bytes. -/

namespace Sys2Proof.Machine

/-- The character of a decimal digit 0..9. -/
def digitChar (d : Nat) : Byte := BitVec.ofNat 8 (0x30 + d)

/-- Decimal digits, most significant first; the first argument bounds the number of divisions. -/
def decBounded : Nat → Nat → List Byte
  | 0, n => [digitChar (n % 10)]
  | k + 1, n => if n < 10 then [digitChar n] else decBounded k (n / 10) ++ [digitChar (n % 10)]

/-- dec(n) of R87: decimal without leading zeros, "0" for 0. -/
def dec (n : Nat) : List Byte := decBounded n n

/-- fixed3(v) of R87: the integer part, a point, three zero-padded digits. -/
def fixed3 (v : Nat) (p : Params := Config.params) : List Byte :=
  let frac := v % p.fixedScale
  dec (v / p.fixedScale)
    ++ [0x2E, digitChar (frac / 100), digitChar (frac / 10 % 10), digitChar (frac % 10)]

/-- The text line of a LogRecord (R86): timestamp, rolling code, total, rate, separated by one space, then a line feed. The
open parameter formatTimestamp of R6 is the argument `fmt`. -/
def logLine (r : LogRecord) (p : Params := Config.params) (fmt : Timestamp → List Byte := Config.formatTimestamp) :
    List Byte :=
  fmt r.ts ++ [0x20] ++ dec r.rollingCode.toNat ++ [0x20] ++ fixed3 r.rainTotalMilli.toNat p ++ [0x20]
    ++ fixed3 r.rainRateMilli.toNat p ++ [0x0A]

/-- The text the log sink holds durably: "Each emitted record is one line" (R86). -/
def State.logText (s : State) (p : Params := Config.params) (fmt : Timestamp → List Byte := Config.formatTimestamp) :
    List Byte :=
  s.durableLog.flatMap fun r => logLine r p fmt

end Sys2Proof.Machine
end

