-- ==== Sys2Proof/Machine/Outcomes.lean ====
section
/-! DEFINITION. The six outcomes of a LINE step with the codes of spec/60_exceptions.md Table R89, and their priority (R90). The
codes are labels for observing a step; no port carries them and no state holds them. -/

namespace Sys2Proof.Machine

/-- The outcomes of Table R89. -/
inductive LineOutcome where
  | blank
  | framingMismatch
  | unrecognizedSensor
  | checksumFailure
  | successLogged
  | successSuppressed
  deriving DecidableEq, Repr

/-- The numeric codes of Table R89. -/
def LineOutcome.code : LineOutcome → Nat
  | .blank => 0
  | .framingMismatch => 1
  | .unrecognizedSensor => 2
  | .checksumFailure => 3
  | .successLogged => 4
  | .successSuppressed => 5

/-- The outcome of a line: the first check that fires, in the order of R90. -/
def lineOutcome (p : Params) (d : DedupState) (line : List Byte) (ts : Timestamp) : LineOutcome :=
  match classify line p with
  | .blank => .blank
  | .nonframe => .framingMismatch
  | .frame h =>
    match decodeFrame h ts p with
    | .unrecognizedSensor => .unrecognizedSensor
    | .checksumFailure _ _ _ _ => .checksumFailure
    | .success f _ _ _ => if emitBit p d f then .successLogged else .successSuppressed

end Sys2Proof.Machine
end

