-- ==== Sys2Proof/Safety.lean ====
section
/-! DEFINITION. What counts as a safe run, in the terms the claims use: the invariants of the DedupState (spec/10_state.md R14,
R17), of the records on the ports (R23, R24), and of their order (spec/42_dedup.md R85). -/

namespace Sys2Proof.Machine

/-- The ranges of the two rain fields (R8, R14). -/
abbrev RainInRange (rainTotalMilli : BitVec 21) (rainRateMilli : BitVec 18) : Prop :=
  rainTotalMilli.toNat ≤ 1666665 ∧ rainRateMilli.toNat ≤ 166665

/-- The invariants I1, I2 and I3 of R17. -/
abbrev DedupState.Inv (p : Params) (d : DedupState) : Prop :=
  (d.prevValid = false → d.runLen = 0 ∧ d.skipCtr = 0)
    ∧ (d.skipCtr ≠ 0 → p.skipTrigger ≤ d.runLen)
    ∧ d.skipCtr < p.skipCount

/-- previous_reading, once valid, holds the fields of a decoded frame and so lies in their ranges (R14). -/
abbrev DedupState.BaselineInRange (d : DedupState) : Prop :=
  d.prevValid = true → RainInRange d.previousReading.rainTotalMilli d.previousReading.rainRateMilli

/-- A DiagRecord as R82 makes it: the supported sensor, `OK` exactly when the checksums agree, the fields in range. -/
abbrev DiagRecord.Sound (r : DiagRecord) : Prop :=
  r.sensorId = Config.params.sensorIdRain ∧ (r.status = .ok ↔ r.checksumTx = r.checksumCalc)
    ∧ RainInRange r.rainTotalMilli r.rainRateMilli

/-- A LogRecord with its fields in range. -/
abbrev LogRecord.Sound (r : LogRecord) : Prop := RainInRange r.rainTotalMilli r.rainRateMilli

/-- A record on either port is sound. -/
def PortRecord.Sound : PortRecord → Prop
  | .diag r => r.Sound
  | .log r => r.Sound

/-- Every record delivered and the record waiting on the LOG port is sound. -/
structure State.RecordsSound (s : State) : Prop where
  delivered : ∀ r ∈ s.trace, r.Sound
  waiting   : ∀ r ∈ s.logPending, r.Sound

/-- d is the DiagRecord with status `OK` of the step that emits the LogRecord l: the same fields and timestamp. -/
abbrev DiagRecord.OkFor (d : DiagRecord) (l : LogRecord) : Prop :=
  d.status = .ok ∧ d.ts = l.ts ∧ d.rollingCode = l.rollingCode ∧ d.rainTotalMilli = l.rainTotalMilli
    ∧ d.rainRateMilli = l.rainRateMilli

/-- The order of R85: directly before every LogRecord, delivered or waiting, stands the `OK` DiagRecord of its step. -/
structure State.PortsOrdered (s : State) : Prop where
  delivered : ∀ before l after, s.trace = before ++ .log l :: after →
    ∃ before' d, before = before' ++ [.diag d] ∧ d.OkFor l
  waiting   : ∀ l ∈ s.logPending, ∃ before' d, s.trace = before' ++ [.diag d] ∧ d.OkFor l

/-- A safe state: all of the above. -/
structure State.Safe (s : State) : Prop where
  dedup    : s.dedup.Inv Config.params
  baseline : s.dedup.BaselineInRange
  records  : s.RecordsSound
  ordered  : s.PortsOrdered

/-- A safe answer of a step: a next state, and a safe one. -/
def SafeOutcome : Host.Outcome State Fault Refusal → Prop
  | .next s => s.Safe
  | .fault _ => False
  | .refused _ => False

/-! ### Timestamps -/

/-- Replace the timestamp of a transaction. -/
def mapTransactionTs (g : Timestamp → Timestamp) : Transaction → Transaction
  | .rst => .rst
  | .line bytes ts => .line bytes (g ts)

/-- Replace the timestamp of a host event. -/
def mapEventTs (g : Timestamp → Timestamp) : HostEvent → HostEvent
  | .transaction t => .transaction (mapTransactionTs g t)
  | .endOfStream => .endOfStream
  | .transportError => .transportError

/-- Replace the timestamp of a LogRecord. -/
def mapLogTs (g : Timestamp → Timestamp) (r : LogRecord) : LogRecord := { r with ts := g r.ts }

/-- Replace the timestamp of a record on either port. -/
def mapRecordTs (g : Timestamp → Timestamp) : PortRecord → PortRecord
  | .diag r => .diag { r with ts := g r.ts }
  | .log r => .log (mapLogTs g r)

/-- Replace every timestamp in a state: the comparison that says what "opaque" means in R67. -/
def State.mapTs (g : Timestamp → Timestamp) (s : State) : State :=
  { s with
    input := s.input.map (mapEventTs g)
    logPending := s.logPending.map (mapLogTs g)
    trace := s.trace.map (mapRecordTs g) }

end Sys2Proof.Machine
end

