-- ==== Sys2Proof/Certificates/Slice0/Obligations.lean ====
section
/-! DEFINITION. The statements about the OSV3RX block for the provers. Each docstring names the rules of the spec it
formalises, or says that it is a consequence or a choice of the model. -/

open Sys2Proof Sys2Proof.Machine

/-! ## Encoding -/

/-- Decoding what the encoder writes for a well-formed instruction gives the instruction back, with every operand (R54's
class map against the formats of R43 and R44), at the parameters of Table R6 and at every configuration with at least one hex
character. -/
def Obligations.DecodeOfEncode : Prop :=
  (∀ i : Instr, i.wf = true → decode (encode i) = i)
  ∧ ∀ (p : Params) (i : Instr), 1 ≤ p.frameHexLen → i.wf p = true → decode (encode i p) p = i

/-- No bit of a transaction is lost by decoding: the encoder gives every transaction back, at every configuration. -/
def Obligations.EncodeOfDecode : Prop :=
  ∀ (p : Params) (t : Transaction), encode (decode t p) p = t

/-- The decoder answers only well-formed instructions, so each line is of the class its row names, at every configuration. -/
def Obligations.DecodeGivesWellFormed : Prop :=
  ∀ (p : Params) (t : Transaction), (decode t p).wf p = true

/-- R54: the four classes in their order, the third told from the fourth by the frame word's mask and match, and how DECODE
ends on each of the two; a blank line is never a frame line; the two discard classes have the same effect. -/
def Obligations.ClassMapOfLines : Prop :=
  ∀ (line : List Byte) (ts : Timestamp),
    (isBlank line = true → decode (.line line ts) = .lineBlank line ts ∧ isFrameLine line = false)
    ∧ (isBlank line = false → isFrameLine line = false → decode (.line line ts) = .lineNonframe line ts)
    ∧ (isFrameLine line = true →
        (sensorId (unpack (packetFrame line)) = 0x2914
          ↔ frameWord (packetFrame line) &&& 0xF0FF0F00000000000000 = 0x20190400000000000000)
        ∧ if frameWord (packetFrame line) &&& 0xF0FF0F00000000000000 = 0x20190400000000000000 then
            decode (.line line ts) = .frameSensor2914 (packetFrame line) (line.drop 25) ts
            ∧ decodeFrame (packetFrame line) ts ≠ .unrecognizedSensor
          else
            decode (.line line ts) = .frameUnrecognized (packetFrame line) (line.drop 25) ts
            ∧ decodeFrame (packetFrame line) ts = .unrecognizedSensor)
    ∧ ∀ s : State, exec (.lineBlank line ts) s = exec (.lineNonframe line ts) s

/-- R43, byte by byte: the length, the five bytes of the tag, twenty hex characters, then whitespace only. -/
def Obligations.FrameLineFormat : Prop :=
  ∀ bytes : List Byte, isFrameLine bytes = true ↔
    25 ≤ bytes.length
    ∧ bytes[0]? = some 0x4F ∧ bytes[1]? = some 0x53 ∧ bytes[2]? = some 0x56 ∧ bytes[3]? = some 0x33 ∧ bytes[4]? = some 0x20
    ∧ (∀ k c, 5 ≤ k → k < 25 → bytes[k]? = some c → isUpperHex c = true)
    ∧ (∀ k c, 25 ≤ k → bytes[k]? = some c → isWS c = true)

/-- R42 and R44: the whitespace set, the upper-case hex characters and their values. -/
def Obligations.CharacterClasses : Prop :=
  ∀ c : Byte,
    (isWS c = true ↔ c ∈ ([0x09, 0x0A, 0x0B, 0x0C, 0x0D, 0x20] : List Byte))
    ∧ (isUpperHex c = true ↔ (0x30 ≤ c ∧ c ≤ 0x39) ∨ (0x41 ≤ c ∧ c ≤ 0x46))
    ∧ (0x30 ≤ c → c ≤ 0x39 → (hexval c).toNat = c.toNat - 0x30)
    ∧ (0x41 ≤ c → c ≤ 0x46 → (hexval c).toNat = c.toNat - 0x37)
    ∧ (0x61 ≤ c → c ≤ 0x66 → isUpperHex c = false)

/-- R75: whitespace added at the end of a line (a kept terminator, a CR, more blanks) changes neither its class nor its
PacketFrame, and so no step, at the parameters of Table R6 and at every configuration with at least one hex character. -/
def Obligations.TerminatorInvariance : Prop :=
  ∀ (line w : List Byte), w.all isWS = true →
    classify (line ++ w) = classify line
    ∧ ∀ (p : Params) (d : DedupState) (ts : Timestamp), 1 ≤ p.frameHexLen →
        stepLine p d (line ++ w) ts = stepLine p d line ts

/-- R76: a classifier that keeps the first 25 bytes and three status bits gives the class of R70 for lines of any length, at
every configuration; the 25 is the tag's length and FRAME_HEX_LEN. -/
def Obligations.StreamingClassifierAgrees : Prop :=
  Config.params.frameLen = 25
  ∧ ∀ (p : Params) (line : List Byte),
    streamClassify line p = classify line p
    ∧ (line.foldl (scanByte p) (scanStart p)).buffer = line.take p.frameLen

/-- Words written out from the spec's encodings (95_test_vectors.md, program lines L_F0 and L_UNK, vectors F2 and F16, the
row RST) decode to the instructions they stand for. -/
def Obligations.KnownWordsDecode : Prop :=
  decode .rst = .rst
  ∧ decode (.line [0x20, 0x20, 0x20] ⟨7⟩) = .lineBlank [0x20, 0x20, 0x20] ⟨7⟩
  ∧ decode (.line [0x4F, 0x53, 0x56, 0x33, 0x20, 0x32, 0x41, 0x31, 0x39, 0x30, 0x34, 0x35, 0x33, 0x30, 0x30] ⟨7⟩)
      = .lineNonframe [0x4F, 0x53, 0x56, 0x33, 0x20, 0x32, 0x41, 0x31, 0x39, 0x30, 0x34, 0x35, 0x33, 0x30, 0x30] ⟨7⟩
  ∧ decode (.line [0x4F, 0x53, 0x56, 0x33, 0x20, 0x32, 0x41, 0x31, 0x39, 0x30, 0x34, 0x35, 0x33, 0x30, 0x30, 0x30, 0x30,
        0x30, 0x30, 0x31, 0x36, 0x32, 0x39, 0x41, 0x30] ⟨7⟩)
      = .frameSensor2914 [2, 10, 1, 9, 0, 4, 5, 3, 0, 0, 0, 0, 0, 0, 1, 6, 2, 9, 10, 0] [] ⟨7⟩
  ∧ decode (.line [0x4F, 0x53, 0x56, 0x33, 0x20, 0x33, 0x41, 0x31, 0x39, 0x30, 0x34, 0x35, 0x33, 0x30, 0x30, 0x30, 0x30,
        0x30, 0x30, 0x31, 0x36, 0x32, 0x39, 0x41, 0x30] ⟨7⟩)
      = .frameUnrecognized [3, 10, 1, 9, 0, 4, 5, 3, 0, 0, 0, 0, 0, 0, 1, 6, 2, 9, 10, 0] [] ⟨7⟩

/-! ## The decoder -/

/-- The first clause is R31: nibble i is the character value at position i XOR 1, for the 20 characters of a PacketFrame. The
second, the same at every configuration whose three lengths agree, is the model's own clause (DEDUCED, log entry 11): R31 speaks
of no other length, and R7 lists no constraint on the lengths. -/
def Obligations.NibbleSwapDirectForm : Prop :=
  (∀ (h : PacketFrame) (i : Fin 20), h.length = 20 → h[i.val ^^^ 1]? = some (nib (unpack h) i))
  ∧ ∀ (p : Params) (h : PacketFrame) (i : Nat), p.LengthsAgree → h.length = p.frameHexLen → i < p.nibbleCount →
      h[i ^^^ 1]? = some (nib (unpack h p) i p)

/-- R45 and R46: the frame word holds the character values of line[5..24] in text order, the first one most significant, and
its bytes are those of the NibbleBuffer; R29's first character of a pair is the high nibble. -/
def Obligations.FrameWordLayout : Prop :=
  (∀ (line : List Byte) (k : Fin 20),
    (frameWord (packetFrame line)).extractLsb' (76 - 4 * k.val) 4 = hexval (line.getD (5 + k.val) 0))
  ∧ (∀ (h : PacketFrame) (k : Fin 10),
    (frameWord h).extractLsb' (72 - 8 * k.val) 8 = (unpack h).getD k.val 0
    ∧ ((unpack h).getD k.val 0).toNat = 16 * (h.getD (2 * k.val) 0).toNat + (h.getD (2 * k.val + 1) 0).toNat)
  ∧ (∀ w : FrameWord, frameWord (ofFrameWord w) = w)

/-- The "W bits" column of Table R47: the lowest bit of nibbles 0 to 19 in the frame word. -/
def Obligations.NibbleMapTable : Prop :=
  ∀ h : PacketFrame, (List.range 20).map (fun i => nib (unpack h) i)
    = [72, 76, 64, 68, 56, 60, 48, 52, 40, 44, 32, 36, 24, 28, 16, 20, 8, 12, 0, 4].map
        fun lo => (frameWord h).extractLsb' lo 4

/-- R49 and R50: sensor_id and rolling_code from nibbles, from characters and (sensor_id) from the frame word. -/
def Obligations.BinaryFieldAssembly : Prop :=
  ∀ h : PacketFrame,
    (sensorId (unpack h)).toNat
      = 4096 * (nib (unpack h) 1).toNat + 256 * (nib (unpack h) 2).toNat + 16 * (nib (unpack h) 3).toNat
        + (nib (unpack h) 4).toNat
    ∧ sensorId (unpack h) = h.getD 0 0 ++ h.getD 3 0 ++ h.getD 2 0 ++ h.getD 5 0
    ∧ sensorId (unpack h)
      = (frameWord h).extractLsb' 76 4 ++ (frameWord h).extractLsb' 64 4 ++ (frameWord h).extractLsb' 68 4
        ++ (frameWord h).extractLsb' 56 4
    ∧ (rollingCode (unpack h)).toNat = 16 * (nib (unpack h) 6).toNat + (nib (unpack h) 7).toNat
    ∧ rollingCode (unpack h) = h.getD 7 0 ++ h.getD 6 0

/-- R51, R52 and R53: the two decimal fields are the exact weighted sums, without wrapping in 18 and 21 bits, and
checksum_field is nibble 19; the characters are those the opcode table names for each digit. -/
def Obligations.DecimalFieldAssembly : Prop :=
  ∀ h : PacketFrame,
    (rainRate (unpack h)).toNat
      = (nib (unpack h) 8).toNat + (nib (unpack h) 9).toNat * 10 + (nib (unpack h) 10).toNat * 100
        + (nib (unpack h) 11).toNat * 1000 + (nib (unpack h) 12).toNat * 10000
    ∧ (rainRate (unpack h)).toNat
      = (h.getD 9 0).toNat + (h.getD 8 0).toNat * 10 + (h.getD 11 0).toNat * 100 + (h.getD 10 0).toNat * 1000 + (h.getD 13 0).toNat * 10000
    ∧ (rainTotal (unpack h)).toNat
      = (nib (unpack h) 13).toNat + (nib (unpack h) 14).toNat * 10 + (nib (unpack h) 15).toNat * 100
        + (nib (unpack h) 16).toNat * 1000 + (nib (unpack h) 17).toNat * 10000 + (nib (unpack h) 18).toNat * 100000
    ∧ (rainTotal (unpack h)).toNat
      = (h.getD 12 0).toNat + (h.getD 15 0).toNat * 10 + (h.getD 14 0).toNat * 100 + (h.getD 17 0).toNat * 1000 + (h.getD 16 0).toNat * 10000
        + (h.getD 19 0).toNat * 100000
    ∧ (checksum (unpack h)).field = nib (unpack h) 19
    ∧ (checksum (unpack h)).field = h.getD 18 0

/-- The bounds of R8 and R69 on the decimal fields and the raw checksum sum, whatever the nibbles (no digit check, R65), and
that the frame of vector D3 reaches the two field bounds. -/
def Obligations.DecoderRanges : Prop :=
  (∀ (p : Params) (b : NibbleBuffer),
    (rainRate b p).toNat ≤ 166665 ∧ (rainTotal b p).toNat ≤ 1666665 ∧ checksumSum b p ≤ 270)
  ∧ (rainRate (unpack (ofFrameWord 0x2F19F4FFFFFFFFFFFF2F))).toNat = 166665
  ∧ (rainTotal (unpack (ofFrameWord 0x2F19F4FFFFFFFFFFFF2F))).toNat = 1666665

/-- R64: the computed checksum is the sum of nibbles 1 to 18 modulo 16 and is compared with nibble 19; a change of one summed
nibble always changes it, and a change of nibble 0 or 19 never does. -/
def Obligations.ChecksumOfNibbles : Prop :=
  ∀ h : PacketFrame, h.length = 20 →
    (checksum (unpack h)).computed.toNat = (((List.range 18).map fun k => (nib (unpack h) (k + 1)).toNat).sum) % 16
    ∧ ((checksum (unpack h)).ok = true ↔ (checksum (unpack h)).computed = nib (unpack h) 19)
    ∧ ∀ (i : Fin 20) (v : Nibble),
        ((1 ≤ i.val ∧ i.val ≤ 18 ∧ v ≠ nib (unpack h) i)
          ↔ computedChecksum (unpack (respell h i v)) ≠ computedChecksum (unpack h))

/-- R66, the three outcomes of DECODE and what each carries: the sensor test first, then the checksum. -/
def Obligations.DecodeOutcomes : Prop :=
  ∀ (h : PacketFrame) (ts : Timestamp),
    decodeFrame h ts =
      if sensorId (unpack h) ≠ 0x2914 then .unrecognizedSensor
      else if (checksum (unpack h)).computed = nib (unpack h) 19 then
        .success ⟨rollingCode (unpack h), rainTotal (unpack h), rainRate (unpack h)⟩ ts (nib (unpack h) 19)
          (checksum (unpack h)).computed
      else
        .checksumFailure ⟨rollingCode (unpack h), rainTotal (unpack h), rainRate (unpack h)⟩ ts (nib (unpack h) 19)
          (checksum (unpack h)).computed

/-- Conflict C7 as resolved, and R66's corner case: changing one nibble of a Success frame gives by position the same
Success (nibble 0), UnrecognizedSensor (1 to 4), or ChecksumFailure (5 to 19). -/
def Obligations.SingleNibbleChange : Prop :=
  ∀ (h : PacketFrame) (ts : Timestamp) (f : Reading) (kt kc : Nibble), decodeFrame h ts = .success f ts kt kc →
    h.length = 20 → ∀ (i : Fin 20) (v : Nibble), v ≠ nib (unpack h) i →
      (i.val = 0 → decodeFrame (respell h i v) ts = .success f ts kt kc)
      ∧ (1 ≤ i.val → i.val ≤ 4 → decodeFrame (respell h i v) ts = .unrecognizedSensor)
      ∧ (5 ≤ i.val → ∃ f' kt' kc', decodeFrame (respell h i v) ts = .checksumFailure f' ts kt' kc')

/-! ## One step -/

/-- A step of an idle block runs the instruction that the first transaction decodes to, on the state from which that
transaction has been taken (R5, R21, R36). The input as a list is the model's choice (log entry 5). -/
def Obligations.StepRunsDecoded : Prop :=
  ∀ (s : State) (t : Transaction) (rest : List HostEvent), s.logPending = none → s.input = .transaction t :: rest →
    step s = exec (decode t) { s with input := rest }

/-- R77: decoder, dispatch and meanings together are the transition STEP_LINE of the spec's pseudocode, and its result depends
on ts only through the ts field of the records. -/
def Obligations.ExecIsStepLine : Prop :=
  ∀ (s : State) (line : List Byte) (ts : Timestamp),
    exec (decode (.line line ts)) s = .next (s.applyResult (stepLine Config.params s.dedup line ts))
    ∧ (stepLine Config.params s.dedup line ts =
        match classify line with
        | .blank => ⟨s.dedup, none, none⟩
        | .nonframe => ⟨s.dedup, none, none⟩
        | .frame h =>
          match decodeFrame h ts with
          | .unrecognizedSensor => ⟨s.dedup, none, none⟩
          | .checksumFailure f ts kt kc =>
            ⟨s.dedup, some ⟨.checksumError, 0x2914, ts, f.rollingCode, f.rainRateMilli, f.rainTotalMilli, kt, kc⟩, none⟩
          | .success f ts kt kc =>
            ⟨successDedup Config.params s.dedup f,
              some ⟨.ok, 0x2914, ts, f.rollingCode, f.rainRateMilli, f.rainTotalMilli, kt, kc⟩,
              if emitBit Config.params s.dedup f then
                some ⟨ts, f.rollingCode, f.rainTotalMilli, f.rainRateMilli⟩ else none⟩)
    ∧ ∀ ts' : Timestamp, stepLine Config.params s.dedup line ts' =
        ⟨(stepLine Config.params s.dedup line ts).dedup,
          (stepLine Config.params s.dedup line ts).diag.map (fun r => { r with ts := ts' }),
          (stepLine Config.params s.dedup line ts).log.map (fun r => { r with ts := ts' })⟩

/-- R71, R72 and R78 for the instructions LINE_BLANK, LINE_NONFRAME and FRAME_UNRECOGNIZED: the state is left as it is, every
register and both ports. It is their completion and their frame. -/
def Obligations.DiscardsChangeNothing : Prop :=
  ∀ (s : State) (ts : Timestamp),
    (∀ line, exec (.lineBlank line ts) s = .next s)
    ∧ (∀ line, exec (.lineNonframe line ts) s = .next s)
    ∧ (∀ h trail, exec (.frameUnrecognized h trail ts) s = .next s)

/-- R79: FRAME_SENSOR_2914 on a frame whose checksums differ leaves the DedupState and the LOG port alone and emits one
DiagRecord with status CHECKSUM_ERROR, the decoded fields and both checksum nibbles. -/
def Obligations.ChecksumFailureStep : Prop :=
  ∀ (s : State) (h : PacketFrame) (trail : List Byte) (ts : Timestamp),
    sensorId (unpack h) = 0x2914 → computedChecksum (unpack h) ≠ nib (unpack h) 19 →
    exec (.frameSensor2914 h trail ts) s = .next
      { s with
        trace := s.trace ++ [.diag ⟨.checksumError, 0x2914, ts, rollingCode (unpack h), rainRate (unpack h),
          rainTotal (unpack h), nib (unpack h) 19, computedChecksum (unpack h)⟩] }

/-- R80, R81, R82 and R84 on a FRAME_SENSOR_2914 whose checksums agree, at the parameters of Table R6: the baseline, the
counters by the equality of all three fields, one DiagRecord with status OK, and nothing else but the LOG port. That logAcks and
freeCount stay is about the model's own fields (log entries 2 and 4). -/
def Obligations.SuccessStepState : Prop :=
  ∀ (s : State) (h : PacketFrame) (trail : List Byte) (ts : Timestamp),
    sensorId (unpack h) = 0x2914 → computedChecksum (unpack h) = nib (unpack h) 19 →
    ∃ t : State, exec (.frameSensor2914 h trail ts) s = .next t
      ∧ t.dedup.prevValid = true
      ∧ t.dedup.previousReading = ⟨rollingCode (unpack h), rainTotal (unpack h), rainRate (unpack h)⟩
      ∧ (if s.dedup.prevValid = true ∧ rollingCode (unpack h) = s.dedup.previousReading.rollingCode
            ∧ rainTotal (unpack h) = s.dedup.previousReading.rainTotalMilli
            ∧ rainRate (unpack h) = s.dedup.previousReading.rainRateMilli then
          t.dedup.runLen = s.dedup.runLen + 1
          ∧ t.dedup.skipCtr =
              (if 10 ≤ s.dedup.runLen + 1 then (if s.dedup.skipCtr + 1 = 919 then 0 else s.dedup.skipCtr + 1)
               else s.dedup.skipCtr)
        else t.dedup.runLen = 0 ∧ t.dedup.skipCtr = 0)
      ∧ t.trace = s.trace ++ [.diag ⟨.ok, 0x2914, ts, rollingCode (unpack h), rainRate (unpack h), rainTotal (unpack h),
          nib (unpack h) 19, computedChecksum (unpack h)⟩]
      ∧ t.input = s.input ∧ t.logAcks = s.logAcks ∧ t.freeCount = s.freeCount

/-- R83: when a Success puts a LogRecord on the LOG port. On a change always; on a repeat below the trigger; on a repeat in
suppression mode when the skip counter comes to 0; else the port is left as it is. In a state that meets I2 of R17 the three
cases together are that the skip counter comes to 0. -/
def Obligations.SuccessStepLog : Prop :=
  ∀ (s : State) (h : PacketFrame) (trail : List Byte) (ts : Timestamp),
    sensorId (unpack h) = 0x2914 → computedChecksum (unpack h) = nib (unpack h) 19 →
    ∃ t : State, exec (.frameSensor2914 h trail ts) s = .next t
      ∧ (t.logPending =
        if ¬ (s.dedup.prevValid = true ∧ rollingCode (unpack h) = s.dedup.previousReading.rollingCode
            ∧ rainTotal (unpack h) = s.dedup.previousReading.rainTotalMilli
            ∧ rainRate (unpack h) = s.dedup.previousReading.rainRateMilli)
          ∨ s.dedup.runLen + 1 < 10 ∨ t.dedup.skipCtr = 0 then
          some ⟨ts, rollingCode (unpack h), rainTotal (unpack h), rainRate (unpack h)⟩
        else s.logPending)
      ∧ ((s.dedup.skipCtr ≠ 0 → 10 ≤ s.dedup.runLen) →
          t.logPending =
            if t.dedup.skipCtr = 0 then some ⟨ts, rollingCode (unpack h), rainTotal (unpack h), rainRate (unpack h)⟩
            else s.logPending)

/-- R83's short form: `emit` is 1 exactly when skip' is 0, in every state that meets I2 of R17 and for every configuration that
R7 allows, the saturating ones included. -/
def Obligations.EmitIsSkipZero : Prop :=
  ∀ (p : Params) (d : DedupState) (f : Reading), p.Valid → (d.skipCtr ≠ 0 → p.skipTrigger ≤ d.runLen) →
    emitBit p d f = decide (nextSkip p d f = 0)

/-- The frame of FRAME_SENSOR_2914, whatever its operands: it leaves the input ports, the acknowledgements and the free
values alone, adds at most one DiagRecord and no LogRecord to what is delivered, and writes the LOG port and the DedupState
only on a Success. -/
def Obligations.SensorFrameLeavesRest : Prop :=
  ∀ (s t : State) (h : PacketFrame) (trail : List Byte) (ts : Timestamp),
    exec (.frameSensor2914 h trail ts) s = .next t →
      t.input = s.input ∧ t.logAcks = s.logAcks ∧ t.freeCount = s.freeCount
      ∧ (t.trace = s.trace ∨ ∃ r, t.trace = s.trace ++ [.diag r])
      ∧ ((∀ f kt kc, decodeFrame h ts ≠ .success f ts kt kc) → t.dedup = s.dedup ∧ t.logPending = s.logPending)

/-- R102: RST clears prev_valid and both counters, which is the DedupState after power-on but for previous_reading ("any
value"); it emits nothing, and leaves the input, the LOG port and everything delivered as they are. The next Success is logged
whatever it is, and a second RST changes nothing more. The clauses on logAcks and freeCount are about the model's own fields (log entries 2 and 4), not R102. -/
def Obligations.RstStep : Prop :=
  ∀ s : State, ∃ t : State, exec .rst s = .next t
    ∧ t.dedup.prevValid = false ∧ t.dedup.runLen = 0 ∧ t.dedup.skipCtr = 0
    ∧ t.dedup = { State.reset.dedup with previousReading := t.dedup.previousReading }
    ∧ t.trace = s.trace ∧ t.logPending = s.logPending ∧ t.input = s.input ∧ t.logAcks = s.logAcks
    ∧ t.freeCount = s.freeCount + 1
    ∧ (∀ (p : Params) (f : Reading), emitBit p t.dedup f = true)
    ∧ ∃ (r : Reading) (n : Nat),
        exec .rst t = .next { t with dedup := { t.dedup with previousReading := r }, freeCount := n }

/-- Table R26: the reset values the spec states, and both ports idle with nothing delivered. That nothing waits at the input
and no acknowledgement is due is the model's choice (log entries 4 and 5). -/
def Obligations.ResetValues : Prop :=
  State.reset.dedup.prevValid = false ∧ State.reset.dedup.runLen = 0 ∧ State.reset.dedup.skipCtr = 0
  ∧ State.reset.logPending = none ∧ State.reset.trace = [] ∧ State.reset.input = [] ∧ State.reset.logAcks = 0

/-- R89 and R90: the outcome of a line is the first check that fires, and each outcome has the code and the effects of its
row of Table R89, for every configuration; at the default one SENSOR_ID_RAIN is 0x2914. -/
def Obligations.OutcomeTable : Prop :=
  ∀ (p : Params) (d : DedupState) (line : List Byte) (ts : Timestamp),
    (lineOutcome p d line ts).code =
      (if isBlank line = true then 0
       else if isFrameLine line p = false then 1
       else if sensorId (unpack (packetFrame line p) p) p ≠ p.sensorIdRain then 2
       else if computedChecksum (unpack (packetFrame line p) p) p ≠ nib (unpack (packetFrame line p) p) 19 p then 3
       else if emitBit p d (fieldsOf (unpack (packetFrame line p) p) p) then 4 else 5)
    ∧ ((lineOutcome p d line ts).code ≤ 2 → stepLine p d line ts = ⟨d, none, none⟩)
    ∧ ((lineOutcome p d line ts).code = 3 →
        (stepLine p d line ts).dedup = d ∧ (stepLine p d line ts).log = none
        ∧ ∃ r, (stepLine p d line ts).diag = some r ∧ r.status = .checksumError)
    ∧ (4 ≤ (lineOutcome p d line ts).code →
        (stepLine p d line ts).dedup = successDedup p d (fieldsOf (unpack (packetFrame line p) p) p)
        ∧ ∃ r, (stepLine p d line ts).diag = some r ∧ r.status = .ok)
    ∧ ((stepLine p d line ts).log.isSome = true ↔ (lineOutcome p d line ts).code = 4)
    ∧ Config.params.sensorIdRain = 0x2914

/-- R91: no state, no line and no report makes the machine fault or refuse; every step has a next state. -/
def Obligations.EveryStepHasNext : Prop :=
  ∀ s : State, ∃ s' : State, step s = .next s'

/-! ## The ports -/

/-- R106: a block held by a LogRecord accepts no transaction. It stays as it is while the sink gives no acknowledgement, and
an acknowledgement makes the record durable and the port idle. That the wait is a step of its own, and the sink a count of
acknowledgements, is the model's choice (log entry 4). -/
def Obligations.LogDurabilityHold : Prop :=
  ∀ (s : State) (r : LogRecord), s.logPending = some r →
    (s.logAcks = 0 → step s = .next s)
    ∧ ∀ n, s.logAcks = n + 1 →
        step s = .next { s with logAcks := n, trace := s.trace ++ [.log r], logPending := none }

/-- R106's stuck state: a sink that never acknowledges leaves the block held for ever, with no timeout. The sink is the
model's count of acknowledgements (log entry 4). -/
def Obligations.NoAckHoldsForEver : Prop :=
  ∀ (s : State), s.logPending ≠ none → s.logAcks = 0 → ∀ n : Nat, core.run n s = .next s

/-- R98 and R99: with no transaction at the input an idle block holds its state for however long the wait lasts. The input as a list is the model's choice (log entry 5). -/
def Obligations.IdleHoldsState : Prop :=
  ∀ (s : State), s.logPending = none → s.input = [] → ∀ n : Nat, core.run n s = .next s

/-- R99 and R100: the reports end of stream and transport error take no step: the state is unchanged but for the report
itself, and nothing is emitted. The input as a list is the model's choice (log entry 5). -/
def Obligations.SourceReportsChangeNothing : Prop :=
  ∀ (s : State) (rest : List HostEvent), s.logPending = none →
    (s.input = .endOfStream :: rest → step s = .next { s with input := rest })
    ∧ (s.input = .transportError :: rest → step s = .next { s with input := rest })

/-- R105: a RST presented while a step waits for the sink's acknowledgement takes effect after that step completes: first the
record is durable, then the DedupState is cleared. The wait as a step of its own is the model's choice (log entry 4). -/
def Obligations.RstAfterHeldStep : Prop :=
  ∀ (s : State) (r : LogRecord) (n : Nat) (rest : List HostEvent),
    s.logPending = some r → s.logAcks = n + 1 → s.input = .transaction .rst :: rest →
    ∃ t u : State, step s = .next t ∧ step t = .next u
      ∧ t.dedup = s.dedup ∧ t.trace = s.trace ++ [.log r] ∧ t.input = s.input
      ∧ u.dedup.prevValid = false ∧ u.dedup.runLen = 0 ∧ u.dedup.skipCtr = 0
      ∧ u.trace = t.trace ∧ u.logPending = none ∧ u.input = rest

/-- R36, R23 and R24 over every step: what the ports have delivered is only ever added to, by at most one record a step, and
a LogRecord only by becoming durable after it waited on the LOG port (the model's step of its own, log entry 4). -/
def Obligations.OutputsOnlyAppended : Prop :=
  ∀ s s' : State, step s = .next s' →
    s'.trace = s.trace ∨ (∃ r, s'.trace = s.trace ++ [.diag r])
    ∨ ∃ r, s.logPending = some r ∧ s'.logPending = none ∧ s'.trace = s.trace ++ [.log r]

/-- R39: a step that takes anything from the input, or writes the DedupState, starts with no LogRecord waiting; and a waiting
LogRecord leaves the port only into what is durable. -/
def Obligations.DurableBeforeNextAccepted : Prop :=
  ∀ s s' : State, step s = .next s' → ∀ r, s.logPending = some r →
    s'.input = s.input ∧ s'.dedup = s.dedup
    ∧ (s'.logPending = some r ∨ (s'.logPending = none ∧ s'.durableLog = s.durableLog ++ [r]))

/-- R13 and R84, "No other outcome writes either register", over the whole machine: a step changes the DedupState only when
the block is idle and its first transaction is RST or a line that ends in Success. -/
def Obligations.OnlyRstAndSuccessWriteDedup : Prop :=
  ∀ s s' : State, step s = .next s' → s'.dedup ≠ s.dedup →
    s.logPending = none ∧
    ((∃ rest, s.input = .transaction .rst :: rest ∧ s'.dedup.prevValid = false)
      ∨ ∃ line ts rest f, s.input = .transaction (.line line ts) :: rest ∧ lineSuccess line ts = some f
          ∧ s'.dedup = successDedup Config.params s.dedup f)

/-! ## Invariants -/

/-- R17: I1, I2 and I3 hold after reset and after every step. -/
def Obligations.DedupInvariantsKept : Prop :=
  State.reset.dedup.Inv Config.params
  ∧ ∀ s s' : State, s.dedup.Inv Config.params → step s = .next s' → s'.dedup.Inv Config.params

/-- R17's invariants for every configuration that R7 allows: over one LINE step, and at reset and over every step of the
machine at that configuration. -/
def Obligations.DedupInvariantsAllParams : Prop :=
  ∀ p : Params, p.Valid →
    (∀ (d : DedupState) (line : List Byte) (ts : Timestamp), d.Inv p → (stepLine p d line ts).dedup.Inv p)
    ∧ (coreWith p).reset.dedup.Inv p
    ∧ ∀ s s' : State, s.dedup.Inv p → stepWith p s = .next s' → s'.dedup.Inv p

/-- Every step keeps a safe state safe: the DedupState's invariants and ranges, sound records, and the order of R85, the OK
DiagRecord directly before the LogRecord of its step. -/
def Obligations.SafeStepKept : Prop :=
  ∀ s : State, s.Safe → SafeOutcome (step s)

/-- The state after reset is safe. -/
def Obligations.ResetIsSafe : Prop := State.reset.Safe

/-- R85 alone, for every state whose ports are in that order: every step keeps the OK DiagRecord of a Success directly before
its LogRecord, delivered or waiting. -/
def Obligations.PortOrderKept : Prop :=
  ∀ s s' : State, s.PortsOrdered → step s = .next s' → s'.PortsOrdered

/-! ## Whole streams and comparisons -/

/-- R38: the machine works a sequence of lines off one at a time in the order presented. With an acknowledgement for every
LogRecord (the model's count, log entry 4) it comes to an idle state with the DedupState and the records of the spec's
transition folded over the lines. -/
def Obligations.StreamRunsToEnd : Prop :=
  ∀ (s : State) (ls : List (List Byte × Timestamp)),
    s.logPending = none → s.input = ls.map (fun l => .transaction (.line l.1 l.2)) →
    ((lineRecords Config.params s.dedup ls).filterMap PortRecord.log?).length ≤ s.logAcks →
    ∃ (k : Nat) (t : State), core.run k s = .next t
      ∧ t.input = [] ∧ t.logPending = none
      ∧ t.dedup = runLines Config.params s.dedup ls
      ∧ t.trace = s.trace ++ lineRecords Config.params s.dedup ls
      ∧ t.freeCount = s.freeCount

/-- R88: the closed form of a run, with other lines in between ignored. ls holds the run's first j Successes, l is Success j;
at the default parameters the logged ones are j = 0..9 and j = 9 + 919m. -/
def Obligations.ClosedFormOfRun : Prop :=
  ∀ (p : Params) (d : DedupState) (f : Reading) (ls : List (List Byte × Timestamp)) (l : List Byte × Timestamp) (j : Nat),
    p.runLenSat = none → 1 ≤ p.skipCount → equalBit d f = false →
    (∀ x ∈ ls, lineSuccess x.1 x.2 p = none ∨ lineSuccess x.1 x.2 p = some f) → successCount ls p = j →
    lineSuccess l.1 l.2 p = some f →
    (1 ≤ p.skipTrigger →
      (stepLine p (runLines p d ls) l.1 l.2).dedup
        = ⟨true, f, j, if j < p.skipTrigger then 0 else (j - p.skipTrigger + 1) % p.skipCount⟩
      ∧ ((stepLine p (runLines p d ls) l.1 l.2).log.isSome = true
          ↔ j < p.skipTrigger ∨ (j - p.skipTrigger + 1) % p.skipCount = 0))
    ∧ (p.skipTrigger = 0 →
      (stepLine p (runLines p d ls) l.1 l.2).dedup = ⟨true, f, j, j % p.skipCount⟩
      ∧ ((stepLine p (runLines p d ls) l.1 l.2).log.isSome = true ↔ j % p.skipCount = 0))
    ∧ (p = Config.params →
      ((stepLine p (runLines p d ls) l.1 l.2).log.isSome = true ↔ j ≤ 9 ∨ ∃ m, 1 ≤ m ∧ j = 9 + 919 * m))

/-- R15: a run-length counter that saturates at m >= SKIP_TRIGGER is observationally equivalent: the same records on both
ports for every sequence of lines, and the same DedupState but for the saturated counter. -/
def Obligations.SaturationUnobservable : Prop :=
  ∀ (p : Params) (m : Nat) (d : DedupState) (ls : List (List Byte × Timestamp)),
    p.runLenSat = none → p.skipTrigger ≤ m →
    lineRecords { p with runLenSat := some m } { d with runLen := min d.runLen m } ls = lineRecords p d ls
    ∧ runLines { p with runLenSat := some m } { d with runLen := min d.runLen m } ls
      = { runLines p d ls with runLen := min (runLines p d ls).runLen m }

/-- R67: a timestamp is an opaque passthrough value. Replacing every timestamp in a state by any function of it replaces
the timestamps of the next state in the same way and changes nothing else. -/
def Obligations.TimestampsOpaque : Prop :=
  ∀ (g : Timestamp → Timestamp) (s : State),
    ∃ s' : State, step s = .next s' ∧ step (s.mapTs g) = .next (s'.mapTs g)

/-- U1 and the note of Table R26: "no rule reads it while prev_valid = 0". Two states that differ only in a previous_reading
that is not valid take the same step, and differ afterwards at most in the same way. -/
def Obligations.StaleReadingInvisible : Prop :=
  ∀ (s : State) (r : Reading), s.dedup.prevValid = false →
    ∃ s' t' : State, step s = .next s'
      ∧ step { s with dedup := { s.dedup with previousReading := r } } = .next t'
      ∧ (t' = s' ∨ (s'.dedup.prevValid = false
          ∧ t' = { s' with dedup := { s'.dedup with previousReading := r } }))

/-! ## The configuration -/

/-- R6: the machine that takes the configuration as an argument is, at the values of Table R6, the machine itself: the same
steps, and the values the table fixes. These values meet R7, and the three lengths agree. -/
def Obligations.MachineIsConfiguredMachine : Prop :=
  (∀ s : State, stepWith Config.params s = step s) ∧ (coreWith Config.params).reset = State.reset
  ∧ Config.params.frameTag = [0x4F, 0x53, 0x56, 0x33, 0x20] ∧ Config.params.frameHexLen = 20
  ∧ Config.params.nibbleCount = 20 ∧ Config.params.byteCount = 10 ∧ Config.params.sensorIdRain = 0x2914
  ∧ Config.params.skipTrigger = 10 ∧ Config.params.skipCount = 919 ∧ Config.params.fixedScale = 1000
  ∧ Config.params.runLenSat = none ∧ Config.params.Valid ∧ Config.params.LengthsAgree

/-! ## The log text -/

/-- R87, at every configuration whose FIXED_SCALE is the 1000 that R7 fixes: dec spells n in decimal digits with no leading zero unless n is 0; fixed3 is dec of v div 1000, a point, and exactly
three digits that spell v mod 1000; and the rule's four examples. -/
def Obligations.FixedPointText : Prop :=
  (∀ n : Nat,
    (∀ c ∈ dec n, 0x30 ≤ c ∧ c ≤ 0x39)
    ∧ (dec n).foldl (fun acc c => 10 * acc + (c.toNat - 0x30)) 0 = n
    ∧ (n ≠ 0 → (dec n).head? ≠ some 0x30) ∧ dec 0 = [0x30])
  ∧ (∀ (p : Params) (v : Nat), p.fixedScale = 1000 →
    ∃ a b c : Nat, a ≤ 9 ∧ b ≤ 9 ∧ c ≤ 9 ∧ 100 * a + 10 * b + c = v % 1000
    ∧ fixed3 v p = dec (v / 1000)
        ++ [0x2E, BitVec.ofNat 8 (0x30 + a), BitVec.ofNat 8 (0x30 + b), BitVec.ofNat 8 (0x30 + c)])
  ∧ fixed3 29160 = [0x32, 0x39, 0x2E, 0x31, 0x36, 0x30]
  ∧ fixed3 0 = [0x30, 0x2E, 0x30, 0x30, 0x30]
  ∧ fixed3 5 = [0x30, 0x2E, 0x30, 0x30, 0x35]
  ∧ fixed3 1666665 = [0x31, 0x36, 0x36, 0x36, 0x2E, 0x36, 0x36, 0x35]

/-- R86: the text line of a LogRecord, total before rate, for every configuration and every formatTimestamp; and each durable
record adds its line to the log's text. -/
def Obligations.LogLineText : Prop :=
  ∀ (p : Params) (fmt : Timestamp → List Byte),
    (∀ r : LogRecord, logLine r p fmt = fmt r.ts ++ 0x20 :: dec r.rollingCode.toNat
      ++ 0x20 :: fixed3 r.rainTotalMilli.toNat p ++ 0x20 :: fixed3 r.rainRateMilli.toNat p ++ [0x0A])
    ∧ ∀ (s : State) (r : LogRecord), s.logPending = some r →
        s.logDurable.logText p fmt = s.logText p fmt ++ logLine r p fmt

/-! ## The opcode table's bits -/

/-- The model's own convention (log entry 6): a row's bits, presented by withFetchWord, are the very next instruction a step
runs, after any waiting LogRecord has become durable. -/
def Obligations.TableWordRunsNext : Prop :=
  ∀ (s : State) (nbits w : Nat) (i : Instr), decodeTableWord nbits w = some i →
    step (s.withFetchWord nbits w) = exec i s.logDurable
end

