-- ==== Sys2Proof/Laws/Framing.lean ====
section
/-! SUPPORT. What the character classes, the classifier and the encoder's bytes do, said once each. -/

namespace Sys2Proof.Machine

/-- The encoder's characters are upper-case hex characters. -/
@[simp] theorem isUpperHex_hexChar (n : Nibble) : isUpperHex (hexChar n) = true := by
  revert n; decide

/-- `hexval` reads back what `hexChar` writes. -/
@[simp] theorem hexval_hexChar (n : Nibble) : hexval (hexChar n) = n := by
  revert n; decide

/-- No upper-case hex character is whitespace. -/
theorem isWS_eq_false_of_isUpperHex {c : Byte} (h : isUpperHex c = true) : isWS c = false := by
  revert c; decide

/-- `hexChar` spells an upper-case hex character back. -/
theorem hexChar_hexval {c : Byte} (h : isUpperHex c = true) : hexChar (hexval c) = c := by
  revert c; decide

/-- The parameters of Table R6 that are lengths, and the offset 25 of Table R43. -/
@[simp] theorem frameTag_length : Config.params.frameTag.length = 5 := rfl
@[simp] theorem frameHexLen_eq : Config.params.frameHexLen = 20 := rfl
@[simp] theorem nibbleCount_eq : Config.params.nibbleCount = 20 := rfl
@[simp] theorem byteCount_eq : Config.params.byteCount = 10 := rfl
@[simp] theorem frameLen_eq : Config.params.frameLen = 25 := rfl

/-- What a frame line is, test by test, at any configuration (R43). -/
theorem isFrameLine_iff_params (p : Params) (line : List Byte) :
    isFrameLine line p = true ↔ p.frameLen ≤ line.length ∧ line.take p.frameTag.length = p.frameTag
      ∧ ((line.drop p.frameTag.length).take p.frameHexLen).all isUpperHex = true
      ∧ (line.drop p.frameLen).all isWS = true := by
  simp only [isFrameLine, Bool.and_eq_true, decide_eq_true_eq, and_assoc]

/-- The same with the offsets of Table R43. -/
theorem isFrameLine_iff (line : List Byte) :
    isFrameLine line = true ↔ 25 ≤ line.length ∧ line.take 5 = Config.params.frameTag
      ∧ ((line.drop 5).take 20).all isUpperHex = true ∧ (line.drop 25).all isWS = true :=
  isFrameLine_iff_params Config.params line

/-- CLASSIFY on a blank line. -/
theorem classify_of_blank {line : List Byte} (h : isBlank line = true) (p : Params) :
    classify line p = .blank := by
  unfold isBlank at h; simp only [classify, h, if_true]

/-- CLASSIFY on a line that is not blank: a frame exactly for the format of R43. -/
theorem classify_of_not_blank {line : List Byte} (h : isBlank line = false) (p : Params) :
    classify line p = if isFrameLine line p then .frame (packetFrame line p) else .nonframe := by
  unfold isBlank at h
  by_cases hf : isFrameLine line p = true
  · obtain ⟨h₁, h₂, h₃, h₄⟩ := (isFrameLine_iff_params p line).mp hf
    simp only [classify, h, hf, h₂, h₃, h₄, if_true, Nat.not_lt.mpr h₁, ne_eq, not_true_eq_false, if_false,
      Bool.false_eq_true]
  · have hn := mt (isFrameLine_iff_params p line).mpr hf
    simp only [classify, h, hf, if_false, Bool.false_eq_true]
    split <;> try rfl
    split <;> try rfl
    split <;> try rfl
    split <;> try rfl
    simp_all

/-- A frame line is not blank: byte 0 is the tag's 'O' (R54). -/
theorem isBlank_of_isFrameLine {line : List Byte} (h : isFrameLine line = true) : isBlank line = false := by
  obtain ⟨hlen, htag, -, -⟩ := (isFrameLine_iff line).mp h
  cases line with
  | nil => simp at hlen
  | cons c l =>
    have hc : c = 0x4F := by
      have := congrArg List.head? htag
      simpa [Config.params] using this
    simp [isBlank, hc, isWS]

/-- What each answer of CLASSIFY says of the line. -/
theorem classify_cases (line : List Byte) (p : Params) :
    (isBlank line = true ∧ classify line p = .blank)
    ∨ (isBlank line = false ∧ isFrameLine line p = false ∧ classify line p = .nonframe)
    ∨ (isBlank line = false ∧ isFrameLine line p = true ∧ classify line p = .frame (packetFrame line p)) := by
  by_cases hb : isBlank line = true
  · exact .inl ⟨hb, classify_of_blank hb p⟩
  · rw [Bool.not_eq_true] at hb
    have hc := classify_of_not_blank hb p
    by_cases hf : isFrameLine line p = true
    · exact .inr (.inr ⟨hb, hf, by rw [hc, if_pos hf]⟩)
    · rw [Bool.not_eq_true] at hf
      exact .inr (.inl ⟨hb, hf, by rw [hc, hf]; rfl⟩)

/-- A PacketFrame has FRAME_HEX_LEN values (R45). -/
@[simp] theorem packetFrame_length (line : List Byte) (p : Params) : (packetFrame line p).length = p.frameHexLen := by
  simp [packetFrame]

/-- Value k of a PacketFrame is that of the character k places behind the tag (R45). -/
theorem packetFrame_getD (line : List Byte) (p : Params) (k : Nat) (hk : k < p.frameHexLen) :
    (packetFrame line p).getD k 0 = hexval (line.getD (p.frameTag.length + k) 0) := by
  simp [packetFrame, List.getD_eq_getElem?_getD, hk]

/-- The scan's buffer is the first bytes taken, whatever it started from. -/
theorem scan_buffer (p : Params) (line : List Byte) (q : LineScan) (hq : q.buffer.length ≤ p.frameLen) :
    (line.foldl (scanByte p) q).buffer = (q.buffer ++ line).take p.frameLen := by
  induction line generalizing q with
  | nil => simp [List.take_of_length_le hq]
  | cons c l ih =>
    rw [List.foldl_cons]
    by_cases hlt : q.buffer.length < p.frameLen
    · rw [ih _ (by simp [scanByte, hlt])]
      simp [scanByte, hlt]
    · have heq : q.buffer.length = p.frameLen := by omega
      rw [ih _ (by simp [scanByte, heq])]
      simp [scanByte, ← heq]

end Sys2Proof.Machine

namespace Sys2Proof

open Machine

/-- A frame's bytes are the tag, its characters and its trailing whitespace. -/
@[simp] theorem frameBytes_length (h : PacketFrame) (trail : List Byte) (p : Params) :
    (frameBytes h trail p).length = p.frameTag.length + h.length + trail.length := by
  simp only [frameBytes, List.length_append, List.length_map]

/-- The trailing whitespace stands behind the hex characters (Table R43). -/
theorem frameBytes_drop (h : PacketFrame) (trail : List Byte) (p : Params) (hl : h.length = p.frameHexLen) :
    (frameBytes h trail p).drop p.frameLen = trail := by
  rw [frameBytes, List.drop_left' (by simp [hl, Params.frameLen])]

/-- A frame's bytes open with the tag. -/
@[simp] theorem frameBytes_take (h : PacketFrame) (trail : List Byte) (p : Params) :
    (frameBytes h trail p).take p.frameTag.length = p.frameTag := by
  rw [frameBytes, List.append_assoc, List.take_left' rfl]

/-- The byte k places behind the tag spells value k of the PacketFrame (R45). -/
theorem frameBytes_getD (h : PacketFrame) (trail : List Byte) (p : Params) (k : Nat) (hk : k < h.length) :
    (frameBytes h trail p).getD (p.frameTag.length + k) 0 = hexChar (h.getD k 0) := by
  rw [frameBytes, List.append_assoc, List.getD_eq_getElem?_getD,
    List.getElem?_append_right (by simp), List.getElem?_append_left (by simpa using hk)]
  simp [List.getD_eq_getElem?_getD, hk]

/-- The PacketFrame of a frame's bytes is the frame. -/
theorem packetFrame_frameBytes (h : PacketFrame) (trail : List Byte) (p : Params) (hl : h.length = p.frameHexLen) :
    packetFrame (frameBytes h trail p) p = h := by
  refine List.ext_getElem (by simp [hl]) fun k _ hk => ?_
  have := frameBytes_getD h trail p k hk
  simp only [packetFrame, List.getElem_map, List.getElem_range, this, hexval_hexChar, List.getD_eq_getElem _ _ hk]

end Sys2Proof
end

