-- ==== Sys2Proof/Laws/Operands.lean ====
section
/-! SUPPORT. What UNPACK and NIB do, and the bounds of the exact sums, said once each. -/

namespace Sys2Proof.Machine

/-- The NibbleBuffer has BYTE_COUNT bytes (R20). -/
@[simp] theorem unpack_length (h : PacketFrame) (p : Params) : (unpack h p).length = p.byteCount := by
  simp [unpack]

/-- Byte k is the character pair (2k, 2k+1), the first character the high nibble (R29). -/
theorem unpack_getD (h : PacketFrame) (p : Params) (k : Nat) (hk : k < p.byteCount) :
    (unpack h p).getD k 0 = h.getD (2 * k) 0 ++ h.getD (2 * k + 1) 0 := by
  simp [unpack, List.getD_eq_getElem?_getD, hk]

/-- The low half of a pair of nibbles. -/
@[simp] theorem low_nibble (a b : Nibble) : (a ++ b).extractLsb' 0 4 = b := by
  revert a b; decide

/-- The high half of a pair of nibbles. -/
@[simp] theorem high_nibble (a b : Nibble) : (a ++ b).extractLsb' 4 4 = a := by
  revert a b; decide

/-- Flipping the lowest bit of an even index. -/
theorem two_mul_xor_one (k : Nat) : (2 * k) ^^^ 1 = 2 * k + 1 := by
  exact Nat.xor_one_of_even (even_two_mul k)

/-- Flipping the lowest bit of an odd index. -/
theorem two_mul_add_one_xor_one (k : Nat) : (2 * k + 1) ^^^ 1 = 2 * k := by
  exact Nat.xor_one_of_odd (odd_two_mul_add_one k)

/-- NIB reads the character at the index with its lowest bit flipped, at every configuration whose lengths agree (R31). -/
theorem nib_unpack (h : PacketFrame) (p : Params) (hp : p.LengthsAgree) (i : Nat) (hi : i < p.nibbleCount) :
    nib (unpack h p) i p = h.getD (i ^^^ 1) 0 := by
  obtain ⟨-, hb, -⟩ := hp
  have hk : i / 2 < p.byteCount := by omega
  unfold nib
  rw [if_neg (by omega), unpack_getD h p _ hk]
  rcases Nat.mod_two_eq_zero_or_one i with he | ho
  · rw [if_pos he, low_nibble]
    obtain ⟨k, rfl⟩ : ∃ k, i = 2 * k := ⟨i / 2, by omega⟩
    rw [two_mul_xor_one, show 2 * k / 2 = k by omega]
  · rw [if_neg (by omega), high_nibble]
    obtain ⟨k, rfl⟩ : ∃ k, i = 2 * k + 1 := ⟨i / 2, by omega⟩
    rw [two_mul_add_one_xor_one, show (2 * k + 1) / 2 = k by omega]

/-- The lengths of Table R6 agree. -/
theorem lengthsAgree_params : Config.params.LengthsAgree := by decide

/-- NIB at the parameters of Table R6 (R31). -/
theorem nib_eq (h : PacketFrame) (i : Nat) (hi : i < 20) : nib (unpack h) i = h.getD (i ^^^ 1) 0 :=
  nib_unpack h Config.params lengthsAgree_params i hi

/-- The frame word as a number, each digit at its place (R45). -/
theorem frameWord_toNat (h : PacketFrame) :
    (frameWord h).toNat = (h.getD 0 0).toNat * 2 ^ 76 + (h.getD 1 0).toNat * 2 ^ 72 + (h.getD 2 0).toNat * 2 ^ 68
      + (h.getD 3 0).toNat * 2 ^ 64 + (h.getD 4 0).toNat * 2 ^ 60 + (h.getD 5 0).toNat * 2 ^ 56
      + (h.getD 6 0).toNat * 2 ^ 52 + (h.getD 7 0).toNat * 2 ^ 48 + (h.getD 8 0).toNat * 2 ^ 44
      + (h.getD 9 0).toNat * 2 ^ 40 + (h.getD 10 0).toNat * 2 ^ 36 + (h.getD 11 0).toNat * 2 ^ 32
      + (h.getD 12 0).toNat * 2 ^ 28 + (h.getD 13 0).toNat * 2 ^ 24 + (h.getD 14 0).toNat * 2 ^ 20
      + (h.getD 15 0).toNat * 2 ^ 16 + (h.getD 16 0).toNat * 2 ^ 12 + (h.getD 17 0).toNat * 2 ^ 8
      + (h.getD 18 0).toNat * 2 ^ 4 + (h.getD 19 0).toNat := by
  have hlt : ∀ k, (h.getD k 0).toNat < 16 := fun k => (h.getD k 0).isLt
  rw [frameWord, BitVec.toNat_ofNat]
  simp only [List.range, List.range.loop, List.foldl_cons, List.foldl_nil]
  have h0 := hlt 0; have h1 := hlt 1; have h2 := hlt 2; have h3 := hlt 3; have h4 := hlt 4
  have h5 := hlt 5; have h6 := hlt 6; have h7 := hlt 7; have h8 := hlt 8; have h9 := hlt 9
  have h10 := hlt 10; have h11 := hlt 11; have h12 := hlt 12; have h13 := hlt 13; have h14 := hlt 14
  have h15 := hlt 15; have h16 := hlt 16; have h17 := hlt 17; have h18 := hlt 18; have h19 := hlt 19
  generalize (h.getD 0 0).toNat = a0 at *; generalize (h.getD 1 0).toNat = a1 at *
  generalize (h.getD 2 0).toNat = a2 at *; generalize (h.getD 3 0).toNat = a3 at *
  generalize (h.getD 4 0).toNat = a4 at *; generalize (h.getD 5 0).toNat = a5 at *
  generalize (h.getD 6 0).toNat = a6 at *; generalize (h.getD 7 0).toNat = a7 at *
  generalize (h.getD 8 0).toNat = a8 at *; generalize (h.getD 9 0).toNat = a9 at *
  generalize (h.getD 10 0).toNat = a10 at *; generalize (h.getD 11 0).toNat = a11 at *
  generalize (h.getD 12 0).toNat = a12 at *; generalize (h.getD 13 0).toNat = a13 at *
  generalize (h.getD 14 0).toNat = a14 at *; generalize (h.getD 15 0).toNat = a15 at *
  generalize (h.getD 16 0).toNat = a16 at *; generalize (h.getD 17 0).toNat = a17 at *
  generalize (h.getD 18 0).toNat = a18 at *; generalize (h.getD 19 0).toNat = a19 at *
  omega

/-- A nibble is at most 15. -/
theorem nib_le (b : NibbleBuffer) (i : Nat) (p : Params) : (nib b i p).toNat ≤ 15 := by
  have := (nib b i p).isLt; omega

/-- The bound of R8 on the rate, with no digit check (R65). -/
theorem rainRateSum_le (b : NibbleBuffer) (p : Params) : rainRateSum b p ≤ 166665 := by
  have h8 := nib_le b 8 p; have h9 := nib_le b 9 p; have h10 := nib_le b 10 p
  have h11 := nib_le b 11 p; have h12 := nib_le b 12 p
  unfold rainRateSum; omega

/-- The bound of R8 on the total. -/
theorem rainTotalSum_le (b : NibbleBuffer) (p : Params) : rainTotalSum b p ≤ 1666665 := by
  have h13 := nib_le b 13 p; have h14 := nib_le b 14 p; have h15 := nib_le b 15 p
  have h16 := nib_le b 16 p; have h17 := nib_le b 17 p; have h18 := nib_le b 18 p
  unfold rainTotalSum; omega

/-- The rate fits its 18 bits: nothing is lost by narrowing (R69). -/
theorem rainRate_toNat (b : NibbleBuffer) (p : Params) : (rainRate b p).toNat = rainRateSum b p := by
  have := rainRateSum_le b p
  rw [rainRate, BitVec.toNat_ofNat, Nat.mod_eq_of_lt (by omega)]

/-- The total fits its 21 bits (R69). -/
theorem rainTotal_toNat (b : NibbleBuffer) (p : Params) : (rainTotal b p).toNat = rainTotalSum b p := by
  have := rainTotalSum_le b p
  rw [rainTotal, BitVec.toNat_ofNat, Nat.mod_eq_of_lt (by omega)]

/-- The computed checksum is the exact sum modulo 16 (R64). -/
theorem computedChecksum_toNat (b : NibbleBuffer) (p : Params) : (computedChecksum b p).toNat = checksumSum b p % 16 := by
  rw [computedChecksum, BitVec.toNat_ofNat]; omega

end Sys2Proof.Machine
end

