-- ==== Sys2Proof/Laws/State.lean ====
section
/-! SUPPORT. One lemma per field of State and per named update, so that no later proof unfolds a record update. -/

namespace Sys2Proof.Machine

@[simp] theorem withDedup_dedup (s : State) (d : DedupState) : (s.withDedup d).dedup = d := rfl
@[simp] theorem withDedup_input (s : State) (d : DedupState) : (s.withDedup d).input = s.input := rfl
@[simp] theorem withDedup_logAcks (s : State) (d : DedupState) : (s.withDedup d).logAcks = s.logAcks := rfl
@[simp] theorem withDedup_logPending (s : State) (d : DedupState) : (s.withDedup d).logPending = s.logPending := rfl
@[simp] theorem withDedup_trace (s : State) (d : DedupState) : (s.withDedup d).trace = s.trace := rfl
@[simp] theorem withDedup_freeCount (s : State) (d : DedupState) : (s.withDedup d).freeCount = s.freeCount := rfl
@[simp] theorem withDedup_self (s : State) : s.withDedup s.dedup = s := rfl

@[simp] theorem withInput_dedup (s : State) (l : List HostEvent) : (s.withInput l).dedup = s.dedup := rfl
@[simp] theorem withInput_input (s : State) (l : List HostEvent) : (s.withInput l).input = l := rfl
@[simp] theorem withInput_logAcks (s : State) (l : List HostEvent) : (s.withInput l).logAcks = s.logAcks := rfl
@[simp] theorem withInput_logPending (s : State) (l : List HostEvent) : (s.withInput l).logPending = s.logPending := rfl
@[simp] theorem withInput_trace (s : State) (l : List HostEvent) : (s.withInput l).trace = s.trace := rfl
@[simp] theorem withInput_freeCount (s : State) (l : List HostEvent) : (s.withInput l).freeCount = s.freeCount := rfl

@[simp] theorem diagWrite_dedup (s : State) (r : DiagRecord) : (s.diagWrite r).dedup = s.dedup := rfl
@[simp] theorem diagWrite_input (s : State) (r : DiagRecord) : (s.diagWrite r).input = s.input := rfl
@[simp] theorem diagWrite_logAcks (s : State) (r : DiagRecord) : (s.diagWrite r).logAcks = s.logAcks := rfl
@[simp] theorem diagWrite_logPending (s : State) (r : DiagRecord) : (s.diagWrite r).logPending = s.logPending := rfl
@[simp] theorem diagWrite_trace (s : State) (r : DiagRecord) : (s.diagWrite r).trace = s.trace ++ [.diag r] := rfl
@[simp] theorem diagWrite_freeCount (s : State) (r : DiagRecord) : (s.diagWrite r).freeCount = s.freeCount := rfl

@[simp] theorem logWrite_dedup (s : State) (r : LogRecord) : (s.logWrite r).dedup = s.dedup := rfl
@[simp] theorem logWrite_input (s : State) (r : LogRecord) : (s.logWrite r).input = s.input := rfl
@[simp] theorem logWrite_logAcks (s : State) (r : LogRecord) : (s.logWrite r).logAcks = s.logAcks := rfl
@[simp] theorem logWrite_logPending (s : State) (r : LogRecord) : (s.logWrite r).logPending = some r := rfl
@[simp] theorem logWrite_trace (s : State) (r : LogRecord) : (s.logWrite r).trace = s.trace := rfl
@[simp] theorem logWrite_freeCount (s : State) (r : LogRecord) : (s.logWrite r).freeCount = s.freeCount := rfl

@[simp] theorem logDurable_dedup (s : State) : s.logDurable.dedup = s.dedup := by
  unfold State.logDurable; split <;> rfl
@[simp] theorem logDurable_input (s : State) : s.logDurable.input = s.input := by
  unfold State.logDurable; split <;> rfl
@[simp] theorem logDurable_logAcks (s : State) : s.logDurable.logAcks = s.logAcks := by
  unfold State.logDurable; split <;> rfl
@[simp] theorem logDurable_freeCount (s : State) : s.logDurable.freeCount = s.freeCount := by
  unfold State.logDurable; split <;> rfl

/-- An acknowledgement leaves the LOG port idle. -/
@[simp] theorem logDurable_logPending (s : State) : s.logDurable.logPending = none := by
  unfold State.logDurable; split <;> simp_all

/-- An acknowledgement makes exactly the waiting record durable. -/
theorem logDurable_trace (s : State) :
    s.logDurable.trace = s.trace ++ (s.logPending.map PortRecord.log).toList := by
  unfold State.logDurable; split <;> simp_all

/-- With an idle LOG port there is nothing to acknowledge. -/
theorem logDurable_of_idle {s : State} (h : s.logPending = none) : s.logDurable = s := by
  unfold State.logDurable; rw [h]

@[simp] theorem resetDedup_dedup (s : State) :
    s.resetDedup.dedup = ⟨false, Config.freeReading s.freeCount, 0, 0⟩ := rfl
@[simp] theorem resetDedup_input (s : State) : s.resetDedup.input = s.input := rfl
@[simp] theorem resetDedup_logAcks (s : State) : s.resetDedup.logAcks = s.logAcks := rfl
@[simp] theorem resetDedup_logPending (s : State) : s.resetDedup.logPending = s.logPending := rfl
@[simp] theorem resetDedup_trace (s : State) : s.resetDedup.trace = s.trace := rfl
@[simp] theorem resetDedup_freeCount (s : State) : s.resetDedup.freeCount = s.freeCount + 1 := rfl

@[simp] theorem applyResult_dedup (s : State) (r : StepResult) : (s.applyResult r).dedup = r.dedup := by
  rcases r with ⟨d, _ | x, _ | y⟩ <;> rfl
@[simp] theorem applyResult_input (s : State) (r : StepResult) : (s.applyResult r).input = s.input := by
  rcases r with ⟨d, _ | x, _ | y⟩ <;> rfl
@[simp] theorem applyResult_logAcks (s : State) (r : StepResult) : (s.applyResult r).logAcks = s.logAcks := by
  rcases r with ⟨d, _ | x, _ | y⟩ <;> rfl
@[simp] theorem applyResult_freeCount (s : State) (r : StepResult) : (s.applyResult r).freeCount = s.freeCount := by
  rcases r with ⟨d, _ | x, _ | y⟩ <;> rfl

/-- A step's LogRecord goes to the LOG port; without one the port is left alone. -/
@[simp] theorem applyResult_logPending (s : State) (r : StepResult) :
    (s.applyResult r).logPending = r.log.or s.logPending := by
  rcases r with ⟨d, _ | x, _ | y⟩ <;> rfl

/-- A step delivers its DiagRecord, if any, and nothing else. -/
@[simp] theorem applyResult_trace (s : State) (r : StepResult) :
    (s.applyResult r).trace = s.trace ++ (r.diag.map PortRecord.diag).toList := by
  rcases r with ⟨d, _ | x, _ | y⟩ <;> simp [State.applyResult]

/-- A result that keeps the DedupState and emits nothing leaves the state as it is. -/
@[simp] theorem applyResult_discard (s : State) : s.applyResult ⟨s.dedup, none, none⟩ = s := rfl

@[simp] theorem transition_rst (s : State) (p : Params) : s.transition p .rst = s.resetDedup := rfl
@[simp] theorem transition_line (s : State) (p : Params) (line : List Byte) (ts : Timestamp) :
    s.transition p (.line line ts) = s.applyResult (stepLine p s.dedup line ts) := rfl

end Sys2Proof.Machine
end

