-- ==== Sys2Proof/Laws/Ops.lean ====
section
/-! SUPPORT. What the shared operations do, said once each: accepting a transaction, waiting, and the transition on an
outcome. -/

namespace Sys2Proof.Machine

/-- The block accepts a transaction exactly when the LOG port is idle and one is presented (R21, R106). -/
theorem fetch_eq_some_iff (s : State) (t : Transaction) (s' : State) :
    fetch s = some (t, s') ↔
      s.logPending = none ∧ ∃ rest, s.input = .transaction t :: rest ∧ s' = s.withInput rest := by
  unfold fetch
  split
  next hp hi => simp [hp, hi, eq_comm]
  next h =>
    simp only [reduceCtorEq, false_iff, not_and, not_exists]
    rintro hp rest hi -
    exact h t rest hp hi

/-- An idle block with a transaction presented accepts it. -/
theorem fetch_of_idle {s : State} {t : Transaction} {rest : List HostEvent} (hp : s.logPending = none)
    (hi : s.input = .transaction t :: rest) : fetch s = some (t, s.withInput rest) :=
  (fetch_eq_some_iff s t _).mpr ⟨hp, rest, hi, rfl⟩

/-- Everything the block does while it accepts no transaction: nothing, or take an acknowledgement, or drop a report. -/
theorem waitStep_cases (s : State) :
    waitStep s = s
    ∨ (∃ r n, s.logPending = some r ∧ s.logAcks = n + 1 ∧
        waitStep s = { s with logAcks := n, trace := s.trace ++ [.log r], logPending := none })
    ∨ (s.logPending = none ∧ ∃ e rest, s.input = e :: rest ∧ waitStep s = s.withInput rest) := by
  rcases s with ⟨d, input, acks, pending, trace, free⟩
  cases pending with
  | some r =>
    cases acks with
    | zero => exact .inl rfl
    | succ n => exact .inr (.inl ⟨r, n, rfl, rfl, rfl⟩)
  | none =>
    cases input with
    | nil => exact .inl rfl
    | cons e rest =>
      cases e with
      | transaction t => exact .inl rfl
      | endOfStream => exact .inr (.inr ⟨rfl, _, rest, rfl, rfl⟩)
      | transportError => exact .inr (.inr ⟨rfl, _, rest, rfl, rfl⟩)

/-- The three shapes of the transition on an outcome (R77). -/
theorem onOutcome_cases (p : Params) (d : DedupState) (o : DecodeOutcome) :
    (o = .unrecognizedSensor ∧ onOutcome p d o = ⟨d, none, none⟩)
    ∨ (∃ f ts kt kc, o = .checksumFailure f ts kt kc
        ∧ onOutcome p d o = ⟨d, some (diagRecord p .checksumError f ts kt kc), none⟩)
    ∨ (∃ f ts kt kc, o = .success f ts kt kc
        ∧ onOutcome p d o = ⟨successDedup p d f, some (diagRecord p .ok f ts kt kc),
            if emitBit p d f then some (logRecord f ts) else none⟩) := by
  cases o with
  | unrecognizedSensor => exact .inl ⟨rfl, rfl⟩
  | checksumFailure f ts kt kc => exact .inr (.inl ⟨f, ts, kt, kc, rfl, rfl⟩)
  | success f ts kt kc => exact .inr (.inr ⟨f, ts, kt, kc, rfl, rfl⟩)

/-- DECODE's outcome carries the fields and the checksum nibbles of its own frame (R66). -/
theorem decodeFrame_cases (h : PacketFrame) (ts : Timestamp) (p : Params) :
    (isSupported (unpack h p) p = false ∧ decodeFrame h ts p = .unrecognizedSensor)
    ∨ (isSupported (unpack h p) p = true ∧ computedChecksum (unpack h p) p ≠ nib (unpack h p) 19 p
        ∧ decodeFrame h ts p = .checksumFailure (fieldsOf (unpack h p) p) ts (nib (unpack h p) 19 p)
            (computedChecksum (unpack h p) p))
    ∨ (isSupported (unpack h p) p = true ∧ computedChecksum (unpack h p) p = nib (unpack h p) 19 p
        ∧ decodeFrame h ts p = .success (fieldsOf (unpack h p) p) ts (nib (unpack h p) 19 p)
            (computedChecksum (unpack h p) p)) := by
  by_cases hs : isSupported (unpack h p) p = true
  · by_cases hc : computedChecksum (unpack h p) p = nib (unpack h p) 19 p
    · exact .inr (.inr ⟨hs, hc, by simp [decodeFrame, hs, checksum, hc]⟩)
    · exact .inr (.inl ⟨hs, hc, by simp [decodeFrame, hs, checksum, hc]⟩)
  · rw [Bool.not_eq_true] at hs
    exact .inl ⟨hs, by simp [decodeFrame, hs]⟩

/-- `equal` says that there is a previous reading and that it is f (R80). -/
theorem equalBit_iff (d : DedupState) (f : Reading) :
    equalBit d f = true ↔ d.prevValid = true ∧ f = d.previousReading := by
  rcases f with ⟨a, b, c⟩
  rcases d with ⟨v, ⟨a', b', c'⟩, r, k⟩
  simp [equalBit, and_assoc]

/-- A reset DedupState equals nothing, whatever previous_reading holds (R80). -/
theorem equalBit_of_not_valid {d : DedupState} (h : d.prevValid = false) (f : Reading) : equalBit d f = false := by
  simp [equalBit, h]

end Sys2Proof.Machine
end

