-- ==== Sys2Proof/Laws/PerInstr.lean ====
section
/-! SUPPORT. A law of every instruction as syntax, one lemma per constructor: on which port its encoding stands, and with
which timestamp. -/

namespace Sys2Proof

/-- The timestamp that comes with an instruction's line; RST has none. -/
def Instr.timestamp? : Instr → Option Timestamp
  | .rst => none
  | .lineBlank _ ts => some ts
  | .lineNonframe _ ts => some ts
  | .frameSensor2914 _ _ ts => some ts
  | .frameUnrecognized _ _ ts => some ts

/-- The timestamp that comes with a transaction; RST has no payload (R22). -/
def Transaction.timestamp? : Transaction → Option Timestamp
  | .rst => none
  | .line _ ts => some ts

end Sys2Proof

/-- An instruction is encoded on the LINE port exactly when it has a timestamp, and with that timestamp. -/
def Sys2Proof.Laws.EncodePort.Statement (i : Sys2Proof.Instr) : Prop :=
  (Sys2Proof.encode i).timestamp? = i.timestamp?

theorem Sys2Proof.Laws.EncodePort.rst : Sys2Proof.Laws.EncodePort.Statement .rst := rfl

theorem Sys2Proof.Laws.EncodePort.lineBlank (l : List Sys2Proof.Byte) (ts : Sys2Proof.Timestamp) :
    Sys2Proof.Laws.EncodePort.Statement (.lineBlank l ts) := rfl

theorem Sys2Proof.Laws.EncodePort.lineNonframe (l : List Sys2Proof.Byte) (ts : Sys2Proof.Timestamp) :
    Sys2Proof.Laws.EncodePort.Statement (.lineNonframe l ts) := rfl

theorem Sys2Proof.Laws.EncodePort.frameSensor2914 (h : Sys2Proof.PacketFrame) (trail : List Sys2Proof.Byte)
    (ts : Sys2Proof.Timestamp) : Sys2Proof.Laws.EncodePort.Statement (.frameSensor2914 h trail ts) := rfl

theorem Sys2Proof.Laws.EncodePort.frameUnrecognized (h : Sys2Proof.PacketFrame) (trail : List Sys2Proof.Byte)
    (ts : Sys2Proof.Timestamp) : Sys2Proof.Laws.EncodePort.Statement (.frameUnrecognized h trail ts) := rfl
end

