-- ==== Sys2Proof/Laws/Step.lean ====
section
/-! SUPPORT. Everything one step can do, said once; later proofs cite `step_cases` and do not unfold the step. -/

namespace Sys2Proof.Machine

/-- A step that accepts a transaction runs its instruction. -/
theorem step_of_fetch {s s' : State} {t : Transaction} (h : fetch s = some (t, s')) : step s = exec (decode t) s' := by
  simp [step, h]

/-- A step that accepts none waits. -/
theorem step_of_not_fetch {s : State} (h : fetch s = none) : step s = .next (waitStep s) := by
  simp [step, h]

/-- A held block accepts nothing (R106). -/
theorem fetch_of_held {s : State} {r : LogRecord} (h : s.logPending = some r) : fetch s = none := by
  simp [fetch, h]

/-- Every case of a step that answers next s': it waits; or it is idle, takes RST and clears the DedupState; or it is
idle, takes a line that changes nothing else; or it takes a frame line of the supported sensor and applies the transition
on DECODE's outcome. -/
theorem step_cases {s s' : State} (h : step s = .next s') :
    (fetch s = none ∧ s' = waitStep s)
    ∨ (∃ rest, s.logPending = none ∧ s.input = .transaction .rst :: rest ∧ s' = (s.withInput rest).resetDedup)
    ∨ (∃ line ts rest, s.logPending = none ∧ s.input = .transaction (.line line ts) :: rest
        ∧ (classify line = .blank ∨ classify line = .nonframe
            ∨ ∃ f, classify line = .frame f ∧ isSupported (unpack f) = false)
        ∧ s' = s.withInput rest)
    ∨ (∃ line ts rest f, s.logPending = none ∧ s.input = .transaction (.line line ts) :: rest
        ∧ classify line = .frame f ∧ isSupported (unpack f) = true
        ∧ s' = (s.withInput rest).applyResult (onOutcome Config.params s.dedup (decodeFrame f ts))) := by
  unfold step at h
  split at h
  next t s₁ hf =>
    obtain ⟨hp, rest, hi, rfl⟩ := (fetch_eq_some_iff _ _ _).mp hf
    cases t with
    | rst =>
      refine .inr (.inl ⟨rest, hp, hi, ?_⟩)
      simpa [decode, exec, execRst] using h.symm
    | line line ts =>
      rcases hc : classify line with _ | _ | f
      · refine .inr (.inr (.inl ⟨line, ts, rest, hp, hi, .inl hc, ?_⟩))
        simpa [decode, hc, exec, execLineBlank] using h.symm
      · refine .inr (.inr (.inl ⟨line, ts, rest, hp, hi, .inr (.inl hc), ?_⟩))
        simpa [decode, hc, exec, execLineNonframe] using h.symm
      · by_cases hs : isSupported (unpack f) = true
        · refine .inr (.inr (.inr ⟨line, ts, rest, f, hp, hi, hc, hs, ?_⟩))
          simpa [decode, hc, hs, exec, execFrameSensor2914] using h.symm
        · rw [Bool.not_eq_true] at hs
          refine .inr (.inr (.inl ⟨line, ts, rest, hp, hi, .inr (.inr ⟨f, hc, hs⟩), ?_⟩))
          simpa [decode, hc, hs, exec, execFrameUnrecognized] using h.symm
  next hf =>
    exact .inl ⟨hf, by simpa using h.symm⟩

/-- The configured machine's step on a transaction accepted. -/
theorem stepWith_of_fetch (p : Params) {s s' : State} {t : Transaction} (h : fetch s = some (t, s')) :
    stepWith p s = .next (s'.transition p t) := by
  simp [stepWith, h]

/-- The configured machine waits as the machine does: no parameter bears on the wait. -/
theorem stepWith_of_not_fetch (p : Params) {s : State} (h : fetch s = none) : stepWith p s = .next (waitStep s) := by
  simp [stepWith, h]

end Sys2Proof.Machine
end

