-- ==== Sys2Proof/Tests/Slice0.lean ====
section
/-! SUPPORT. Tests of the model, each on one step or one operation, with results taken from spec/95_test_vectors.md or written
out by hand from the spec's encoding tables; and for every statement that has hypotheses a witness that meets them. -/

namespace Sys2Proof.Tests

open Sys2Proof.Machine

/-! ### Small inputs -/

/-- L_F0, "OSV3 2A1904530000001629A0" (spec/95_test_vectors.md, section 3). -/
def lineF0 : List Byte :=
  [0x4F, 0x53, 0x56, 0x33, 0x20, 0x32, 0x41, 0x31, 0x39, 0x30, 0x34, 0x35, 0x33, 0x30, 0x30, 0x30, 0x30, 0x30, 0x30, 0x31,
   0x36, 0x32, 0x39, 0x41, 0x30]

/-- L_BAD, "OSV3 2A1904530000001629B0". -/
def lineBad : List Byte :=
  [0x4F, 0x53, 0x56, 0x33, 0x20, 0x32, 0x41, 0x31, 0x39, 0x30, 0x34, 0x35, 0x33, 0x30, 0x30, 0x30, 0x30, 0x30, 0x30, 0x31,
   0x36, 0x32, 0x39, 0x42, 0x30]

/-- L_UNK, "OSV3 3A1904530000001629A0". -/
def lineUnk : List Byte :=
  [0x4F, 0x53, 0x56, 0x33, 0x20, 0x33, 0x41, 0x31, 0x39, 0x30, 0x34, 0x35, 0x33, 0x30, 0x30, 0x30, 0x30, 0x30, 0x30, 0x31,
   0x36, 0x32, 0x39, 0x41, 0x30]

/-- The PacketFrame of D1. -/
def frameD1 : PacketFrame := [2, 10, 1, 9, 0, 4, 5, 3, 0, 0, 0, 0, 0, 0, 1, 6, 2, 9, 10, 0]
/-- The PacketFrame of D9, D1 with a wrong checksum character. -/
def frameD9 : PacketFrame := [2, 10, 1, 9, 0, 4, 5, 3, 0, 0, 0, 0, 0, 0, 1, 6, 2, 9, 11, 0]
/-- The PacketFrame of D7, sensor 0x3914. -/
def frameD7 : PacketFrame := [3, 10, 1, 9, 0, 4, 5, 3, 0, 0, 0, 0, 0, 0, 1, 6, 2, 9, 10, 0]

/-- The reading of D1: (53, 29160, 0). -/
def readingD1 : Reading := ⟨53, 29160, 0⟩

/-- An idle state with D1's reading as baseline, the given counters and one line presented. -/
def idleWith (run skip : Nat) (line : List Byte) : State :=
  { State.reset with dedup := ⟨true, readingD1, run, skip⟩, input := [.transaction (.line line ⟨8⟩)] }

/-- A state held by a LogRecord of D1 whose DiagRecord has been delivered, with the given acknowledgements and a RST
presented. -/
def heldWith (acks : Nat) : State :=
  { State.reset with
    dedup := ⟨true, readingD1, 0, 0⟩, input := [.transaction .rst], logAcks := acks
    logPending := some ⟨⟨7⟩, 53, 29160, 0⟩
    trace := [.diag ⟨.ok, 0x2914, ⟨7⟩, 53, 0, 29160, 0xA, 0xA⟩] }

/-- The next state of a step, or the given one where there is none. -/
def nextOr (s : State) : Host.Outcome State Fault Refusal → State
  | .next s' => s'
  | .fault _ => s
  | .refused _ => s

/-! ### Words written out from the encoding tables (R42, R43, R44, R54) -/

theorem test_decode_rst : decode .rst = .rst := by decide

theorem test_decode_blank : decode (.line [0x09, 0x20, 0x0D] ⟨1⟩) = .lineBlank [0x09, 0x20, 0x0D] ⟨1⟩ := by decide

/-- F9: lower-case hex digits. -/
theorem test_decode_nonframe_lower_case :
    decode (.line (lineF0.set 6 0x61) ⟨1⟩) = .lineNonframe (lineF0.set 6 0x61) ⟨1⟩ := by decide

/-- F11 and F13: 21 hex characters; a leading space. -/
theorem test_classify_length_and_anchor :
    classify (lineF0 ++ [0x41]) = .nonframe ∧ classify (0x20 :: lineF0) = .nonframe := by decide

/-- F8: vertical tab and form feed after the frame. -/
theorem test_decode_sensor_2914 :
    decode (.line (lineF0 ++ [0x0B, 0x0C]) ⟨1⟩) = .frameSensor2914 frameD1 [0x0B, 0x0C] ⟨1⟩ := by decide

theorem test_decode_unrecognized : decode (.line lineUnk ⟨1⟩) = .frameUnrecognized frameD7 [] ⟨1⟩ := by decide

/-- The row's match pattern as a frame word is "20190400000000000000" (D2). -/
theorem test_table_word_sensor :
    decodeTableWord 80 0x20190400000000000000
      = some (.frameSensor2914 [2, 0, 1, 9, 0, 4, 0, 0, 0, 0, 0, 0, 0, 0, 0, 0, 0, 0, 0, 0] [] ⟨0⟩) := by decide

theorem test_table_word_unrecognized :
    decodeTableWord 80 0 = some (.frameUnrecognized (List.replicate 20 0) [] ⟨0⟩) := by decide

theorem test_table_word_raw_line :
    decodeTableWord 16 0x2041 = some (.lineNonframe [0x41, 0x20] ⟨0⟩) ∧ decodeTableWord 0 0 = some (.lineBlank [] ⟨0⟩)
      ∧ decodeTableWord 1 1 = some .rst := by decide

/-- A step after reset runs the row's bits: a Success on the LOG port. -/
theorem test_table_word_runs_after_reset :
    (nextOr State.reset (step (State.reset.withFetchWord 80 0x2A1904530000001629A0))).logPending
      = some ⟨⟨0⟩, 53, 29160, 0⟩ := by decide

/-! ### Well-formedness refuses an ill-formed term, one for each check -/

theorem test_wf_refuses_blank : Instr.wf (.lineBlank [0x20, 0x41] ⟨0⟩) = false := by decide
theorem test_wf_refuses_nonframe_blank : Instr.wf (.lineNonframe [0x20] ⟨0⟩) = false := by decide
theorem test_wf_refuses_nonframe_frame : Instr.wf (.lineNonframe lineF0 ⟨0⟩) = false := by decide
theorem test_wf_refuses_sensor_id : Instr.wf (.frameSensor2914 frameD7 [] ⟨0⟩) = false := by decide
theorem test_wf_refuses_sensor_trail : Instr.wf (.frameSensor2914 frameD1 [0x00] ⟨0⟩) = false := by decide
theorem test_wf_refuses_sensor_length : Instr.wf (.frameSensor2914 (frameD1 ++ [0]) [] ⟨0⟩) = false := by decide
theorem test_wf_refuses_unrecognized_length : Instr.wf (.frameUnrecognized (frameD7.take 19) [] ⟨0⟩) = false := by decide
theorem test_wf_refuses_unrecognized_id : Instr.wf (.frameUnrecognized frameD1 [] ⟨0⟩) = false := by decide
theorem test_wf_refuses_unrecognized_trail : Instr.wf (.frameUnrecognized frameD7 [0x58] ⟨0⟩) = false := by decide

/-! ### The decoder's vectors -/

/-- V2: byte 0xAB gives nibble 0 = 0xB and nibble 1 = 0xA. -/
theorem test_nibble_swap :
    nib (unpack (ofFrameWord 0xAB000000000000000000)) 0 = 0xB
      ∧ nib (unpack (ofFrameWord 0xAB000000000000000000)) 1 = 0xA := by decide

/-- D4: ordinary digits. -/
theorem test_decode_d4 :
    decodeFrame (ofFrameWord 0x2A1904C5452341658779) ⟨3⟩ = .success ⟨92, 987654, 12345⟩ ⟨3⟩ 0x7 0x7 := by decide

/-- D5: a wrong checksum still surfaces the fields. -/
theorem test_decode_d5 :
    decodeFrame (ofFrameWord 0x2A1904C5452341658709) ⟨3⟩ = .checksumFailure ⟨92, 987654, 12345⟩ ⟨3⟩ 0x0 0x7 := by decide

/-- D3, D12 and D13: digits above 9 are weighted as they stand. -/
theorem test_decode_digits_above_nine :
    decodeFrame (ofFrameWord 0x2F19F4FFFFFFFFFFFF2F) ⟨3⟩ = .success ⟨255, 1666665, 166665⟩ ⟨3⟩ 0x2 0x2
      ∧ decodeFrame (ofFrameWord 0x2A1904000000A00000A0) ⟨3⟩ = .success ⟨0, 10, 0⟩ ⟨3⟩ 0xA 0xA
      ∧ decodeFrame (ofFrameWord 0x2A190400000000010010) ⟨3⟩ = .success ⟨0, 10, 0⟩ ⟨3⟩ 0x1 0x1 := by decide

/-- The two-nibble change that the checksum misses (section 2.2). -/
theorem test_decode_cancelling_change :
    decodeFrame (ofFrameWord 0x2A1904530000000729A0) ⟨3⟩ = .success ⟨53, 29070, 0⟩ ⟨3⟩ 0xA 0xA := by decide

/-! ### One step each -/

/-- S4: the tenth repeat is suppressed. -/
theorem test_step_s4_suppressed :
    (nextOr State.reset (step (idleWith 9 0 lineF0))).dedup = ⟨true, readingD1, 10, 1⟩
      ∧ (nextOr State.reset (step (idleWith 9 0 lineF0))).logPending = none := by decide

/-- S6: the skip counter wraps from 918 to 0, and the reading is logged. -/
theorem test_step_s6_logged :
    (nextOr State.reset (step (idleWith 927 918 lineF0))).dedup = ⟨true, readingD1, 928, 0⟩
      ∧ (nextOr State.reset (step (idleWith 927 918 lineF0))).logPending = some ⟨⟨8⟩, 53, 29160, 0⟩ := by decide

/-- S9: a checksum failure emits its DiagRecord and changes no register. -/
theorem test_step_s9_checksum_failure :
    (nextOr State.reset (step (idleWith 4 0 lineBad))).trace
        = [.diag ⟨.checksumError, 0x2914, ⟨8⟩, 53, 0, 29160, 0xB, 0xA⟩]
      ∧ (nextOr State.reset (step (idleWith 4 0 lineBad))).dedup = ⟨true, readingD1, 4, 0⟩ := by decide

/-- S10: an unrecognized sensor changes nothing but the input. -/
theorem test_step_s10_unrecognized :
    nextOr State.reset (step (idleWith 4 0 lineUnk)) = { idleWith 4 0 lineUnk with input := [] } := by decide

/-- S11 and S12: a blank line, a non-frame line. -/
theorem test_step_s11_blank :
    nextOr State.reset (step (idleWith 12 3 [])) = { idleWith 12 3 [] with input := [] } := by decide
theorem test_step_s12_nonframe :
    nextOr State.reset (step (idleWith 12 3 (lineF0.set 6 0x61)))
      = { idleWith 12 3 (lineF0.set 6 0x61) with input := [] } := by decide

/-- X1: RST in the middle of a run clears the valid bit and both counters. -/
theorem test_exec_x1_rst :
    (nextOr State.reset (exec .rst (idleWith 500 491 []))).dedup.prevValid = false
      ∧ (nextOr State.reset (exec .rst (idleWith 500 491 []))).dedup.runLen = 0
      ∧ (nextOr State.reset (exec .rst (idleWith 500 491 []))).dedup.skipCtr = 0 := by decide

/-- S15: a stale previous_reading equals nothing. -/
theorem test_equal_s15 : equalBit ⟨false, readingD1, 0, 0⟩ readingD1 = false := by decide

/-- The acknowledgement makes the record durable and the port idle (R106). -/
theorem test_step_ack :
    (nextOr State.reset (step (heldWith 1))).durableLog = [⟨⟨7⟩, 53, 29160, 0⟩]
      ∧ (nextOr State.reset (step (heldWith 1))).logPending = none := by decide

/-- Section 2.7: SKIP_COUNT = 1, SKIP_TRIGGER = 0, RUN_LEN_SAT = 10. -/
theorem test_parameter_corners :
    emitBit { Config.params with skipCount := 1 } ⟨true, readingD1, 9, 0⟩ readingD1 = true
      ∧ emitBit { Config.params with skipTrigger := 0 } ⟨true, readingD1, 0, 0⟩ readingD1 = false
      ∧ nextRun { Config.params with runLenSat := some 10 } ⟨true, readingD1, 10, 1⟩ readingD1 = 10 := by decide

/-- A parameter changes the machine that takes it: with sensor 0x3914 supported, L_UNK, whose nibbles 1 to 18 sum to 43, is a
checksum failure of that sensor, and L_F0 is unrecognized. -/
theorem test_configured_sensor :
    (nextOr State.reset (stepWith { Config.params with sensorIdRain := 0x3914 } (idleWith 4 0 lineUnk))).trace
        = [.diag ⟨.checksumError, 0x3914, ⟨8⟩, 53, 0, 29160, 0xA, 0xB⟩]
      ∧ (lineOutcome { Config.params with sensorIdRain := 0x3914 } State.reset.dedup lineF0 ⟨8⟩).code = 2 := by decide

/-! ### Text (section 2.6) -/

theorem test_fixed3 :
    fixed3 0 = [0x30, 0x2E, 0x30, 0x30, 0x30] ∧ fixed3 5 = [0x30, 0x2E, 0x30, 0x30, 0x35]
      ∧ fixed3 29160 = [0x32, 0x39, 0x2E, 0x31, 0x36, 0x30]
      ∧ fixed3 1666665 = [0x31, 0x36, 0x36, 0x36, 0x2E, 0x36, 0x36, 0x35] := by decide

/-! ### Witnesses: states and operands that meet the hypotheses of the statements -/

theorem witness_DecodeOfEncode :
    Instr.wf .rst = true ∧ Instr.wf (.lineBlank [] ⟨0⟩) = true ∧ Instr.wf (.lineNonframe [0x00] ⟨0⟩) = true
      ∧ Instr.wf (.frameSensor2914 frameD9 [0x0D] ⟨0⟩) = true ∧ Instr.wf (.frameUnrecognized frameD7 [] ⟨0⟩) = true := by
  decide

/-- The least configuration: one hex character behind a tag of one byte. -/
theorem witness_DecodeOfEncode_least :
    1 ≤ ({ Config.params with frameTag := [0x4F], frameHexLen := 1 } : Params).frameHexLen
      ∧ Instr.wf (.frameUnrecognized [5] [0x20] ⟨0⟩) { Config.params with frameTag := [0x4F], frameHexLen := 1 } = true := by
  decide

/-- Each clause at a boundary: the empty line, 24 bytes, 25 bytes of each frame class. -/
theorem witness_ClassMapOfLines :
    isBlank [] = true ∧ (isBlank (lineF0.take 24) = false ∧ isFrameLine (lineF0.take 24) = false)
      ∧ (isFrameLine lineF0 = true
          ∧ frameWord (packetFrame lineF0) &&& 0xF0FF0F00000000000000 = 0x20190400000000000000)
      ∧ (isFrameLine lineUnk = true
          ∧ frameWord (packetFrame lineUnk) &&& 0xF0FF0F00000000000000 ≠ 0x20190400000000000000) := by decide

/-- The first and last byte of each range. -/
theorem witness_CharacterClasses :
    ((0x30 : Byte) ≤ 0x30 ∧ (0x30 : Byte) ≤ 0x39) ∧ ((0x30 : Byte) ≤ 0x39 ∧ (0x39 : Byte) ≤ 0x39)
      ∧ ((0x41 : Byte) ≤ 0x41 ∧ (0x41 : Byte) ≤ 0x46) ∧ ((0x41 : Byte) ≤ 0x46 ∧ (0x46 : Byte) ≤ 0x46)
      ∧ ((0x61 : Byte) ≤ 0x61 ∧ (0x61 : Byte) ≤ 0x66) ∧ ((0x61 : Byte) ≤ 0x66 ∧ (0x66 : Byte) ≤ 0x66) := by decide

theorem witness_FrameLineFormat :
    isFrameLine (lineF0 ++ [0x0A]) = true ∧ lineF0[5]? = some 0x32 ∧ lineF0[24]? = some 0x30
      ∧ (lineF0 ++ [0x0A])[25]? = some 0x0A := by decide

theorem witness_TerminatorInvariance :
    List.all [(0x0D : Byte), 0x0A] isWS = true ∧ 1 ≤ ({ Config.params with frameHexLen := 1 } : Params).frameHexLen := by decide

/-- A frame of 20 values at the default lengths, and one of 22 at lengths of 22, 22 and 11. -/
theorem witness_NibbleSwapDirectForm :
    frameD1.length = 20
      ∧ Params.LengthsAgree { Config.params with frameHexLen := 22, nibbleCount := 22, byteCount := 11 }
      ∧ (frameD1 ++ [1, 2]).length = ({ Config.params with frameHexLen := 22 } : Params).frameHexLen := by decide

theorem witness_ChecksumOfNibbles : frameD1.length = 20 := by decide

/-- A Success frame and a changed nibble at 0, 1, 4, 5 and 19, the ends of the three ranges. -/
theorem witness_SingleNibbleChange :
    frameD1.length = 20 ∧ decodeFrame frameD1 ⟨0⟩ = .success readingD1 ⟨0⟩ 0xA 0xA
      ∧ (1 : Nibble) ≠ nib (unpack frameD1) 0 ∧ (1 : Nibble) ≠ nib (unpack frameD1) 1
      ∧ (1 : Nibble) ≠ nib (unpack frameD1) 4 ∧ (1 : Nibble) ≠ nib (unpack frameD1) 5
      ∧ (1 : Nibble) ≠ nib (unpack frameD1) 19 := by decide

theorem witness_StepRunsDecoded :
    (idleWith 0 0 lineF0).logPending = none
      ∧ (idleWith 0 0 lineF0).input = .transaction (.line lineF0 ⟨8⟩) :: [] := by decide

theorem witness_ChecksumFailureStep :
    sensorId (unpack frameD9) = 0x2914 ∧ computedChecksum (unpack frameD9) ≠ nib (unpack frameD9) 19 := by decide

theorem witness_SuccessStepState :
    sensorId (unpack frameD1) = 0x2914 ∧ computedChecksum (unpack frameD1) = nib (unpack frameD1) 19 := by decide

/-- The same operands, with states in which the LOG port is written on a change, below the trigger and at the wrap, and one
in which it is left alone. -/
theorem witness_SuccessStepLog :
    emitBit Config.params State.reset.dedup readingD1 = true ∧ emitBit Config.params ⟨true, readingD1, 8, 0⟩ readingD1 = true
      ∧ emitBit Config.params ⟨true, readingD1, 927, 918⟩ readingD1 = true
      ∧ emitBit Config.params ⟨true, readingD1, 9, 0⟩ readingD1 = false := by decide

/-- The default configuration at the trigger, and a saturating one at its least length, with a skip counter that is not 0. -/
theorem witness_EmitIsSkipZero :
    Config.params.Valid ∧ ((1 : Nat) ≠ 0 → Config.params.skipTrigger ≤ 10)
      ∧ Params.Valid { Config.params with runLenSat := some 10 } := by
  refine ⟨⟨by decide, ?_, rfl⟩, by decide, by decide, ?_, rfl⟩
  · intro m hm; exact absurd hm (by simp [Config.params])
  · intro m hm
    have : m = 10 := by simpa [eq_comm] using hm
    subst this; decide

theorem witness_SensorFrameLeavesRest :
    (∃ t, exec (.frameSensor2914 frameD1 [] ⟨0⟩) State.reset = .next t)
      ∧ ∀ f kt kc, decodeFrame frameD7 ⟨0⟩ ≠ .success f ⟨0⟩ kt kc := by
  refine ⟨⟨_, rfl⟩, fun f kt kc h => ?_⟩
  have hu : decodeFrame frameD7 ⟨0⟩ = .unrecognizedSensor := by decide
  rw [hu] at h
  exact absurd h (by simp)

/-- One line for each code 0 to 5. -/
theorem witness_OutcomeTable :
    (lineOutcome Config.params State.reset.dedup [] ⟨0⟩).code = 0
      ∧ (lineOutcome Config.params State.reset.dedup [0x58] ⟨0⟩).code = 1
      ∧ (lineOutcome Config.params State.reset.dedup lineUnk ⟨0⟩).code = 2
      ∧ (lineOutcome Config.params State.reset.dedup lineBad ⟨0⟩).code = 3
      ∧ (lineOutcome Config.params State.reset.dedup lineF0 ⟨0⟩).code = 4
      ∧ (lineOutcome Config.params ⟨true, readingD1, 9, 0⟩ lineF0 ⟨0⟩).code = 5 := by decide

/-- Held with no acknowledgement due, and with one. -/
theorem witness_LogDurabilityHold :
    (heldWith 0).logPending = some ⟨⟨7⟩, 53, 29160, 0⟩ ∧ (heldWith 0).logAcks = 0
      ∧ (heldWith 1).logPending = some ⟨⟨7⟩, 53, 29160, 0⟩ ∧ (heldWith 1).logAcks = 0 + 1 := by decide

theorem witness_NoAckHoldsForEver : (heldWith 0).logPending ≠ none ∧ (heldWith 0).logAcks = 0 := by decide

theorem witness_IdleHoldsState :
    ({ idleWith 12 3 [] with input := [] } : State).logPending = none
      ∧ ({ idleWith 12 3 [] with input := [] } : State).input = [] := by decide

theorem witness_SourceReportsChangeNothing :
    ({ State.reset with input := [.endOfStream] } : State).logPending = none
      ∧ ({ State.reset with input := [.endOfStream] } : State).input = .endOfStream :: []
      ∧ ({ State.reset with input := [.transportError] } : State).logPending = none
      ∧ ({ State.reset with input := [.transportError] } : State).input = .transportError :: [] := by decide

theorem witness_RstAfterHeldStep :
    (heldWith 1).logPending = some ⟨⟨7⟩, 53, 29160, 0⟩ ∧ (heldWith 1).logAcks = 0 + 1
      ∧ (heldWith 1).input = .transaction .rst :: [] := by decide

theorem witness_OutputsOnlyAppended : ∃ s', step (heldWith 1) = .next s' := ⟨_, rfl⟩

theorem witness_DurableBeforeNextAccepted :
    (∃ s', step (heldWith 1) = .next s') ∧ (heldWith 1).logPending = some ⟨⟨7⟩, 53, 29160, 0⟩ := ⟨⟨_, rfl⟩, by decide⟩

/-- A Success that changes the counters. -/
theorem witness_OnlyRstAndSuccessWriteDedup :
    ∃ s', step (idleWith 9 0 lineF0) = .next s' ∧ s'.dedup ≠ (idleWith 9 0 lineF0).dedup := by
  refine ⟨nextOr State.reset (step (idleWith 9 0 lineF0)), ?_, by decide⟩
  rfl

theorem witness_DedupInvariantsKept :
    (idleWith 927 918 lineF0).dedup.Inv Config.params ∧ ∃ s', step (idleWith 927 918 lineF0) = .next s' :=
  ⟨by decide, _, rfl⟩

/-- A saturating configuration with a trigger of 0, at its saturated length. -/
theorem witness_DedupInvariantsAllParams :
    Params.Valid { Config.params with skipTrigger := 0, skipCount := 1, runLenSat := some 0 }
      ∧ DedupState.Inv { Config.params with skipTrigger := 0, skipCount := 1, runLenSat := some 0 } ⟨true, readingD1, 0, 0⟩ := by
  refine ⟨⟨by decide, ?_, rfl⟩, by decide⟩
  intro m _; exact Nat.zero_le m

/-- The held state has its OK DiagRecord directly before the waiting LogRecord. -/
theorem witness_PortOrderKept : (heldWith 1).PortsOrdered ∧ ∃ s', step (heldWith 1) = .next s' := by
  refine ⟨⟨fun before l after h => ?_, fun l h => ?_⟩, _, rfl⟩
  · rcases before with _ | ⟨x, before⟩
    · exact absurd h (by simp [heldWith])
    · exact absurd h (by simp [heldWith])
  · have hl : l = ⟨⟨7⟩, 53, 29160, 0⟩ := by simpa [heldWith, eq_comm] using h
    exact ⟨[], _, rfl, by rw [hl]; decide⟩

theorem witness_SafeStepKept : (heldWith 1).Safe where
  dedup := by decide
  baseline := by decide
  records := ⟨fun r h => by
      have hr : r = .diag ⟨.ok, 0x2914, ⟨7⟩, 53, 0, 29160, 0xA, 0xA⟩ := by simpa [heldWith] using h
      rw [hr]; exact (by decide : DiagRecord.Sound ⟨.ok, 0x2914, ⟨7⟩, 53, 0, 29160, 0xA, 0xA⟩),
    fun r h => by
      have hr : r = ⟨⟨7⟩, 53, 29160, 0⟩ := by simpa [heldWith, eq_comm] using h
      rw [hr]; decide⟩
  ordered := witness_PortOrderKept.1

/-- One line and the one acknowledgement it needs. -/
theorem witness_StreamRunsToEnd :
    State.reset.logPending = none
      ∧ ({ State.reset with input := [.transaction (.line lineF0 ⟨8⟩)], logAcks := 1 } : State).input
          = [(lineF0, (⟨8⟩ : Timestamp))].map (fun l => .transaction (.line l.1 l.2))
      ∧ ((lineRecords Config.params State.reset.dedup [(lineF0, (⟨8⟩ : Timestamp))]).filterMap PortRecord.log?).length ≤ 1 := by
  decide

/-- A run with a blank line and one Success before the last, for a trigger of 10 (the default) and of 0. -/
theorem witness_ClosedFormOfRun :
    Config.params.runLenSat = none ∧ 1 ≤ Config.params.skipCount ∧ equalBit State.reset.dedup readingD1 = false
      ∧ (∀ x ∈ [([], (⟨1⟩ : Timestamp)), (lineF0, ⟨2⟩)], lineSuccess x.1 x.2 = none ∨ lineSuccess x.1 x.2 = some readingD1)
      ∧ successCount [([], ⟨1⟩), (lineF0, ⟨2⟩)] = 1 ∧ lineSuccess lineF0 ⟨3⟩ = some readingD1
      ∧ 1 ≤ Config.params.skipTrigger ∧ ({ Config.params with skipTrigger := 0 } : Params).skipTrigger = 0 := by decide

/-- A line that ends in Success, n times over, is n Successes. -/
theorem successCount_replicate (n : Nat) (p : Params) (l : List Byte × Timestamp)
    (h : (lineSuccess l.1 l.2 p).isSome = true) : successCount (List.replicate n l) p = n := by
  simp [successCount, h]

/-- Runs whose last Success is j = 0, 9, 10, 927, 928 and 1847, where the clauses meet, and a trigger of 1. -/
theorem witness_ClosedFormOfRun_boundaries :
    (∀ j ∈ [0, 9, 10, 927, 928, 1847],
      successCount (List.replicate j (lineF0, (⟨1⟩ : Timestamp))) = j
        ∧ ∀ x ∈ List.replicate j (lineF0, (⟨1⟩ : Timestamp)),
            lineSuccess x.1 x.2 = none ∨ lineSuccess x.1 x.2 = some readingD1)
      ∧ equalBit State.reset.dedup readingD1 = false ∧ lineSuccess lineF0 ⟨2⟩ = some readingD1
      ∧ 1 ≤ ({ Config.params with skipTrigger := 1 } : Params).skipTrigger := by
  refine ⟨fun j _ => ⟨successCount_replicate j _ _ (by decide), fun x hx => ?_⟩, by decide, by decide, by decide⟩
  rw [List.eq_of_mem_replicate hx]
  exact .inr (by decide)

theorem witness_SaturationUnobservable : Config.params.runLenSat = none ∧ Config.params.skipTrigger ≤ 10 := by decide

theorem witness_StaleReadingInvisible :
    ({ idleWith 0 0 lineF0 with dedup := ⟨false, readingD1, 0, 0⟩ } : State).dedup.prevValid = false := by decide

theorem witness_FixedPointText : (919 : Nat) ≠ 0 ∧ Config.params.fixedScale = 1000 := by decide

theorem witness_LogLineText : (heldWith 0).logPending = some ⟨⟨7⟩, 53, 29160, 0⟩ := by decide

theorem witness_TableWordRunsNext : decodeTableWord 8 0x20 = some (.lineBlank [0x20] ⟨0⟩) := by decide

end Sys2Proof.Tests
end

section
/-! The decoder's bounds, the step of an idle block, and the configured machine at the values of Table R6. -/

namespace Sys2Proof.Machine

/-- The sum runs over 18 nibbles of at most 15 each (R64). -/
theorem checksumSum_le (b : NibbleBuffer) (p : Params) : checksumSum b p ≤ 270 := by
  have hle : ∀ x ∈ summedNibbles.map fun i => (nib b i p).toNat, x ≤ 15 := by
    intro x hx
    obtain ⟨i, -, rfl⟩ := List.mem_map.mp hx
    exact nib_le b i p
  have hsum := List.sum_le_card_nsmul _ 15 hle
  simpa [checksumSum, summedNibbles] using hsum

/-- Settles O15: a nibble is at most 15, so the weighted sums meet R8's bounds and are narrowed without loss. -/
theorem decoderRanges : Obligations.DecoderRanges := by
  refine ⟨fun p b => ⟨?_, ?_, checksumSum_le b p⟩, by decide, by decide⟩
  · rw [rainRate_toNat]
    exact rainRateSum_le b p
  · rw [rainTotal_toNat]
    exact rainTotalSum_le b p

/-- Decoding a transaction and running its instruction is the transition at the values of Table R6: on a frame of another
sensor, DECODE ends in UnrecognizedSensor, and the transition discards the line as the row's meaning does (R77, R78). -/
theorem exec_decode (t : Transaction) (s : State) : exec (decode t) s = .next (s.transition Config.params t) := by
  cases t with
  | rst => rfl
  | line line ts =>
    rw [transition_line, stepLine]
    cases hc : classify line with
    | blank => simp [decode, hc, exec, execLineBlank]
    | nonframe => simp [decode, hc, exec, execLineNonframe]
    | frame h =>
      by_cases hs : isSupported (unpack h) = true
      · simp [decode, hc, hs, exec, execFrameSensor2914]
      · have hu : decodeFrame h ts = .unrecognizedSensor := by simp [decodeFrame, hs]
        simp [decode, hc, hs, hu, exec, execFrameUnrecognized, onOutcome]

/-- Settles O19: an idle block fetches the transaction presented first. -/
theorem stepRunsDecoded : Obligations.StepRunsDecoded := by
  intro s t rest hidle hinput
  exact step_of_fetch (fetch_of_idle hidle hinput)

/-- The configured machine steps as the machine does: both wait alike, and on a transaction `exec_decode` joins them. -/
theorem stepWith_params (s : State) : stepWith Config.params s = step s := by
  cases hf : fetch s with
  | none => rw [stepWith_of_not_fetch _ hf, step_of_not_fetch hf]
  | some ts =>
    obtain ⟨t, s'⟩ := ts
    rw [stepWith_of_fetch _ hf, step_of_fetch hf, exec_decode]

/-- The values of Table R6 meet R7; with no saturation its second constraint asks nothing. -/
theorem valid_params : Config.params.Valid := by
  refine ⟨by decide, fun m hm => ?_, rfl⟩
  simp [Config.params] at hm

/-- Settles O49: `stepWith_params`, with the values read off Table R6. -/
theorem machineIsConfiguredMachine : Obligations.MachineIsConfiguredMachine :=
  ⟨stepWith_params, rfl, rfl, rfl, rfl, rfl, rfl, rfl, rfl, rfl, rfl, valid_params, lengthsAgree_params⟩

end Sys2Proof.Machine
end

section
/-! The counters of R81 and the invariants of R17 over a line, a step and the configured machine. -/

namespace Sys2Proof.Machine

/-- The three ways R81 writes the counters: a change clears both; a repeat advances the run length, and the skip counter too
once the run length has come to SKIP_TRIGGER. -/
theorem counters_cases (p : Params) (d : DedupState) (f : Reading) :
    (equalBit d f = false ∧ nextRun p d f = 0 ∧ nextSkip p d f = 0)
    ∨ (equalBit d f = true ∧ nextRun p d f = bumpRun p d.runLen ∧ p.skipTrigger ≤ bumpRun p d.runLen
        ∧ nextSkip p d f = bumpSkip p d.skipCtr)
    ∨ (equalBit d f = true ∧ nextRun p d f = bumpRun p d.runLen ∧ bumpRun p d.runLen < p.skipTrigger
        ∧ nextSkip p d f = d.skipCtr) := by
  cases heq : equalBit d f with
  | false => exact .inl ⟨rfl, by simp [nextRun, heq], by simp [nextSkip, heq]⟩
  | true =>
    have hrun : nextRun p d f = bumpRun p d.runLen := by simp [nextRun, heq]
    by_cases htrig : p.skipTrigger ≤ bumpRun p d.runLen
    · exact .inr (.inl ⟨rfl, hrun, htrig, by simp [nextSkip, heq, hrun, inSuppression, htrig]⟩)
    · exact .inr (.inr ⟨rfl, hrun, Nat.lt_of_not_le htrig, by simp [nextSkip, heq, hrun, inSuppression, htrig]⟩)

/-- A run length that has reached SKIP_TRIGGER stays there: saturation at m does not go below it (R7, R15). -/
theorem skipTrigger_le_bumpRun {p : Params} (hp : p.Valid) {n : Nat} (hn : p.skipTrigger ≤ n) :
    p.skipTrigger ≤ bumpRun p n := by
  obtain ⟨-, hsat, -⟩ := hp
  unfold bumpRun
  cases hm : p.runLenSat with
  | none => exact Nat.le_succ_of_le hn
  | some m => exact Nat.le_min.mpr ⟨Nat.le_succ_of_le hn, hsat m hm⟩

/-- The skip counter wraps before it reaches SKIP_COUNT (R16). -/
theorem bumpSkip_lt {p : Params} {n : Nat} (hn : n < p.skipCount) : bumpSkip p n < p.skipCount := by
  unfold bumpSkip
  split <;> omega

/-- A DedupState without a previous reading and with both counters 0 meets R17. -/
theorem inv_cleared {p : Params} (hp : p.Valid) (r : Reading) : DedupState.Inv p ⟨false, r, 0, 0⟩ :=
  ⟨fun _ => ⟨rfl, rfl⟩, fun hne => absurd rfl hne, hp.1⟩

/-- A Success keeps the invariants of R17. -/
theorem successDedup_inv {p : Params} {d : DedupState} (hp : p.Valid) (hd : d.Inv p) (f : Reading) :
    (successDedup p d f).Inv p := by
  obtain ⟨-, hI2, hI3⟩ := hd
  refine ⟨fun hv => (nomatch hv), fun hne => ?_, ?_⟩
  · show p.skipTrigger ≤ nextRun p d f
    replace hne : nextSkip p d f ≠ 0 := hne
    rcases counters_cases p d f with ⟨-, -, hskip⟩ | ⟨-, hrun, htrig, -⟩ | ⟨-, hrun, -, hskip⟩
    · exact absurd hskip hne
    · exact hrun ▸ htrig
    · exact hrun ▸ skipTrigger_le_bumpRun hp (hI2 (hskip ▸ hne))
  · show nextSkip p d f < p.skipCount
    rcases counters_cases p d f with ⟨-, -, hskip⟩ | ⟨-, -, -, hskip⟩ | ⟨-, -, -, hskip⟩ <;> rw [hskip]
    · exact hp.1
    · exact bumpSkip_lt hI3
    · exact hI3

/-- STEP_LINE is the transition on one outcome of DECODE, the same for every DedupState: a line that is discarded (R71, R72) is
answered as an UnrecognizedSensor is (R78). -/
theorem stepLine_eq_onOutcome (p : Params) (line : List Byte) (ts : Timestamp) :
    ∃ o : DecodeOutcome, (∀ d, stepLine p d line ts = onOutcome p d o)
      ∧ (o = .unrecognizedSensor ∨ ∃ h, o = decodeFrame h ts p) := by
  unfold stepLine
  cases classify line p with
  | blank => exact ⟨.unrecognizedSensor, fun _ => rfl, .inl rfl⟩
  | nonframe => exact ⟨.unrecognizedSensor, fun _ => rfl, .inl rfl⟩
  | frame h => exact ⟨decodeFrame h ts p, fun _ => rfl, .inr ⟨h, rfl⟩⟩

/-- The three answers of STEP_LINE (R77), with the fields and the checksum nibbles of the NibbleBuffer they come from. -/
theorem stepLine_cases (p : Params) (d : DedupState) (line : List Byte) (ts : Timestamp) :
    stepLine p d line ts = ⟨d, none, none⟩
    ∨ (∃ b, computedChecksum b p ≠ nib b 19 p ∧ stepLine p d line ts
        = ⟨d, some (diagRecord p .checksumError (fieldsOf b p) ts (nib b 19 p) (computedChecksum b p)), none⟩)
    ∨ (∃ b, computedChecksum b p = nib b 19 p ∧ stepLine p d line ts
        = ⟨successDedup p d (fieldsOf b p),
            some (diagRecord p .ok (fieldsOf b p) ts (nib b 19 p) (computedChecksum b p)),
            if emitBit p d (fieldsOf b p) then some (logRecord (fieldsOf b p) ts) else none⟩) := by
  obtain ⟨o, ho, rfl | ⟨h, rfl⟩⟩ := stepLine_eq_onOutcome p line ts
  · exact .inl (ho d)
  · rw [ho d]
    rcases decodeFrame_cases h ts p with ⟨-, hout⟩ | ⟨-, hck, hout⟩ | ⟨-, hck, hout⟩ <;> rw [hout]
    · exact .inl rfl
    · exact .inr (.inl ⟨_, hck, rfl⟩)
    · exact .inr (.inr ⟨_, hck, rfl⟩)

/-- A line keeps the invariants of R17. -/
theorem stepLine_inv {p : Params} {d : DedupState} (hp : p.Valid) (hd : d.Inv p) (line : List Byte) (ts : Timestamp) :
    (stepLine p d line ts).dedup.Inv p := by
  rcases stepLine_cases p d line ts with hr | ⟨b, -, hr⟩ | ⟨b, -, hr⟩ <;> rw [hr]
  · exact hd
  · exact hd
  · exact successDedup_inv hp hd _

/-- A transaction keeps the invariants of R17. -/
theorem transition_inv {p : Params} {s : State} (hp : p.Valid) (hs : s.dedup.Inv p) (t : Transaction) :
    (s.transition p t).dedup.Inv p := by
  cases t with
  | rst => exact inv_cleared hp _
  | line line ts =>
    rw [transition_line, applyResult_dedup]
    exact stepLine_inv hp hs line ts

/-- No wait writes the DedupState (R98, R100, R106). -/
@[simp] theorem waitStep_dedup (s : State) : (waitStep s).dedup = s.dedup := by
  rcases waitStep_cases s with hw | ⟨r, n, -, -, hw⟩ | ⟨-, e, rest, -, hw⟩
  · rw [hw]
  · rw [hw]
  · rw [hw, withInput_dedup]

/-- Every step of the configured machine keeps the invariants of R17. -/
theorem stepWith_inv {p : Params} {s s' : State} (hp : p.Valid) (hs : s.dedup.Inv p) (h : stepWith p s = .next s') :
    s'.dedup.Inv p := by
  cases hf : fetch s with
  | none =>
    obtain rfl : waitStep s = s' := by simpa [stepWith_of_not_fetch p hf] using h
    rwa [waitStep_dedup]
  | some ts =>
    obtain ⟨t, s₁⟩ := ts
    obtain rfl : s₁.transition p t = s' := by simpa [stepWith_of_fetch p hf] using h
    obtain ⟨-, rest, -, rfl⟩ := (fetch_eq_some_iff _ _ _).mp hf
    exact transition_inv (s := s.withInput rest) hp hs t

/-- Settles O40: `stepLine_inv`, `inv_cleared` and `stepWith_inv`. -/
theorem dedupInvariantsAllParams : Obligations.DedupInvariantsAllParams := fun _ hp =>
  ⟨fun _ line ts hd => stepLine_inv hp hd line ts, inv_cleared hp _, fun _ _ hs h => stepWith_inv hp hs h⟩

/-- Settles O39: the machine is the configured machine at the values of Table R6, which R7 allows. -/
theorem dedupInvariantsKept : Obligations.DedupInvariantsKept :=
  ⟨inv_cleared valid_params _, fun s _ hs h => stepWith_inv valid_params hs ((stepWith_params s).trans h)⟩

end Sys2Proof.Machine
end

section
/-! The safe states: what each operation keeps of the ranges, of the records and of the order of R85. -/

namespace Sys2Proof.Machine

/-! ### Ranges -/

/-- The fields of a decoded frame lie in the ranges of R8, whatever its nibbles. -/
theorem fieldsOf_inRange (b : NibbleBuffer) (p : Params) :
    RainInRange (fieldsOf b p).rainTotalMilli (fieldsOf b p).rainRateMilli := by
  obtain ⟨hbounds, -, -⟩ := decoderRanges
  obtain ⟨hrate, htotal, -⟩ := hbounds p b
  exact ⟨htotal, hrate⟩

/-- A line keeps the baseline in its ranges: a new one is the fields of a decoded frame (R84). -/
theorem stepLine_baseline {d : DedupState} (hd : d.BaselineInRange) (p : Params) (line : List Byte) (ts : Timestamp) :
    (stepLine p d line ts).dedup.BaselineInRange := by
  rcases stepLine_cases p d line ts with hr | ⟨b, -, hr⟩ | ⟨b, -, hr⟩ <;> rw [hr]
  · exact hd
  · exact hd
  · exact fun _ => fieldsOf_inRange b p

/-- A transaction keeps the baseline in its ranges; RST leaves none that is valid. -/
theorem transition_baseline {s : State} (hs : s.dedup.BaselineInRange) (p : Params) (t : Transaction) :
    (s.transition p t).dedup.BaselineInRange := by
  cases t with
  | rst => exact fun hv => nomatch hv
  | line line ts =>
    rw [transition_line, applyResult_dedup]
    exact stepLine_baseline hs p line ts

/-! ### What a line emits -/

/-- The DiagRecord of a line is sound: its status says whether the checksums agree (R82). -/
theorem stepLine_diag_sound {d : DedupState} {line : List Byte} {ts : Timestamp} :
    ∀ x ∈ (stepLine Config.params d line ts).diag, x.Sound := by
  intro x hx
  rcases stepLine_cases Config.params d line ts with hr | ⟨b, hck, hr⟩ | ⟨b, hck, hr⟩ <;> rw [hr] at hx
  · exact nomatch hx
  · obtain rfl := Option.some.inj hx
    exact ⟨rfl, iff_of_false (fun h => nomatch h) (Ne.symm hck), fieldsOf_inRange b _⟩
  · obtain rfl := Option.some.inj hx
    exact ⟨rfl, iff_of_true rfl hck.symm, fieldsOf_inRange b _⟩

/-- A line that emits a LogRecord emits the `OK` DiagRecord of the same reading (R85). -/
theorem stepLine_log_follows_diag {p : Params} {d : DedupState} {line : List Byte} {ts : Timestamp} :
    ∀ l ∈ (stepLine p d line ts).log, ∃ x, (stepLine p d line ts).diag = some x ∧ x.OkFor l := by
  intro l hl
  rcases stepLine_cases p d line ts with hr | ⟨b, -, hr⟩ | ⟨b, -, hr⟩ <;> rw [hr] at hl ⊢
  · exact nomatch hl
  · exact nomatch hl
  · obtain ⟨-, rfl⟩ : emitBit p d (fieldsOf b p) = true ∧ logRecord (fieldsOf b p) ts = l := by simpa using hl
    exact ⟨_, rfl, rfl, rfl, rfl, rfl, rfl⟩

/-- A LogRecord with the fields of a sound DiagRecord is sound. -/
theorem DiagRecord.OkFor.sound {x : DiagRecord} {l : LogRecord} (h : x.OkFor l) (hx : x.Sound) : l.Sound := by
  obtain ⟨-, -, -, htotal, hrate⟩ := h
  obtain ⟨-, -, hrange⟩ := hx
  rwa [htotal, hrate] at hrange

/-! ### Sound records -/

/-- Soundness of the records is about the two output ports alone. -/
theorem State.RecordsSound.congr {s t : State} (h : s.RecordsSound) (htrace : t.trace = s.trace)
    (hpending : t.logPending = s.logPending) : t.RecordsSound :=
  ⟨htrace ▸ h.delivered, hpending ▸ h.waiting⟩

/-- A wait delivers at most the record that waits. -/
theorem waitStep_recordsSound {s : State} (h : s.RecordsSound) : (waitStep s).RecordsSound := by
  rcases waitStep_cases s with hw | ⟨r, n, hr, -, hw⟩ | ⟨-, e, rest, -, hw⟩ <;> rw [hw]
  · exact h
  · refine ⟨fun x hx => ?_, fun x hx => nomatch hx⟩
    rcases List.mem_append.mp hx with hx | hx
    · exact h.delivered x hx
    · rw [List.mem_singleton.mp hx]
      exact h.waiting r hr
  · exact h.congr rfl rfl

/-- A sound result, given to the ports, leaves sound records there. -/
theorem applyResult_recordsSound {s : State} {r : StepResult} (h : s.RecordsSound) (hdiag : ∀ x ∈ r.diag, x.Sound)
    (hlog : ∀ l ∈ r.log, l.Sound) : (s.applyResult r).RecordsSound where
  delivered x hx := by
    rw [applyResult_trace, List.mem_append] at hx
    rcases hx with hx | hx
    · exact h.delivered x hx
    · obtain ⟨y, hy, rfl⟩ := Option.map_eq_some_iff.mp (Option.mem_toList.mp hx)
      exact hdiag y hy
  waiting l hl := by
    rw [applyResult_logPending] at hl
    rcases Option.or_eq_some_iff.mp hl with hl | ⟨-, hl⟩
    · exact hlog l hl
    · exact h.waiting l hl

/-- A transaction keeps the records sound. -/
theorem transition_recordsSound {s : State} (h : s.RecordsSound) (t : Transaction) :
    (s.transition Config.params t).RecordsSound := by
  cases t with
  | rst => exact h.congr rfl rfl
  | line line ts =>
    refine applyResult_recordsSound h stepLine_diag_sound fun l hl => ?_
    obtain ⟨x, hx, hok⟩ := stepLine_log_follows_diag l hl
    exact hok.sound (stepLine_diag_sound x hx)

/-! ### The order of R85 -/

/-- Where an element can stand in a list that ends in a: it is that a, or it stands in the rest. -/
theorem append_singleton_split {α : Type} {xs before after : List α} {a b : α} (h : xs ++ [a] = before ++ b :: after) :
    (xs = before ∧ a = b) ∨ ∃ after', xs = before ++ b :: after' := by
  rcases List.eq_nil_or_concat' after with rfl | ⟨after', c, rfl⟩
  · obtain ⟨hxs, hab⟩ := List.append_inj' h rfl
    exact .inl ⟨hxs, List.singleton_inj.mp hab⟩
  · rw [← List.cons_append, ← List.append_assoc] at h
    exact .inr ⟨after', (List.append_inj' h rfl).1⟩

/-- The order of R85 is about the two output ports alone. -/
theorem State.PortsOrdered.congr {s t : State} (h : s.PortsOrdered) (htrace : t.trace = s.trace)
    (hpending : t.logPending = s.logPending) : t.PortsOrdered :=
  ⟨htrace ▸ h.delivered, by rw [htrace, hpending]; exact h.waiting⟩

/-- A waiting LogRecord that becomes durable follows its DiagRecord directly: nothing came between them (R85, R106). -/
theorem waitStep_portsOrdered {s : State} (h : s.PortsOrdered) : (waitStep s).PortsOrdered := by
  rcases waitStep_cases s with hw | ⟨r, n, hr, -, hw⟩ | ⟨-, e, rest, -, hw⟩ <;> rw [hw]
  · exact h
  · refine ⟨fun before l after heq => ?_, fun l hl => nomatch hl⟩
    rcases append_singleton_split heq with ⟨rfl, hl⟩ | ⟨after', hxs⟩
    · obtain rfl := PortRecord.log.inj hl
      exact h.waiting r hr
    · exact h.delivered before l after' hxs
  · exact h.congr rfl rfl

/-- A result whose LogRecord comes with its `OK` DiagRecord keeps the order, if the LOG port is idle (R21, R85). -/
theorem applyResult_portsOrdered {s : State} {r : StepResult} (h : s.PortsOrdered) (hidle : s.logPending = none)
    (hlog : ∀ l ∈ r.log, ∃ x, r.diag = some x ∧ x.OkFor l) : (s.applyResult r).PortsOrdered := by
  have hpending : (s.applyResult r).logPending = r.log := by simp [hidle]
  cases hdiag : r.diag with
  | none =>
    have hnone : r.log = none := Option.eq_none_iff_forall_not_mem.mpr fun l hl => by
      obtain ⟨x, hx, -⟩ := hlog l hl
      exact nomatch hdiag.symm.trans hx
    exact h.congr (by simp [hdiag]) (by rw [hpending, hnone, hidle])
  | some x =>
    have htrace : (s.applyResult r).trace = s.trace ++ [.diag x] := by simp [hdiag]
    constructor
    · intro before l after heq
      rcases append_singleton_split (htrace ▸ heq) with ⟨-, hl⟩ | ⟨after', hxs⟩
      · exact nomatch hl
      · exact h.delivered before l after' hxs
    · intro l hl
      obtain ⟨y, hy, hok⟩ := hlog l (hpending ▸ hl)
      obtain rfl := Option.some.inj (hdiag.symm.trans hy)
      exact ⟨s.trace, x, htrace, hok⟩

/-- A transaction accepted by an idle block keeps the order of R85. -/
theorem transition_portsOrdered {s : State} (h : s.PortsOrdered) (hidle : s.logPending = none) (p : Params)
    (t : Transaction) : (s.transition p t).PortsOrdered := by
  cases t with
  | rst => exact h.congr rfl rfl
  | line line ts => exact applyResult_portsOrdered h hidle stepLine_log_follows_diag

/-! ### Safe states -/

/-- A wait keeps a safe state safe. -/
theorem waitStep_safe {s : State} (h : s.Safe) : (waitStep s).Safe where
  dedup    := by rw [waitStep_dedup]; exact h.dedup
  baseline := by rw [waitStep_dedup]; exact h.baseline
  records  := waitStep_recordsSound h.records
  ordered  := waitStep_portsOrdered h.ordered

/-- A transaction accepted by an idle block keeps a safe state safe. -/
theorem transition_safe {s : State} (h : s.Safe) (hidle : s.logPending = none) (t : Transaction) :
    (s.transition Config.params t).Safe where
  dedup    := transition_inv valid_params h.dedup t
  baseline := transition_baseline h.baseline _ t
  records  := transition_recordsSound h.records t
  ordered  := transition_portsOrdered h.ordered hidle _ t

/-- Safety does not depend on what the host has yet to present. -/
theorem withInput_safe {s : State} (h : s.Safe) (l : List HostEvent) : (s.withInput l).Safe :=
  ⟨h.dedup, h.baseline, h.records.congr rfl rfl, h.ordered.congr rfl rfl⟩

/-- Settles O41: a step waits, or is the transition on the transaction that an idle block accepts. -/
theorem safeStepKept : Obligations.SafeStepKept := by
  intro s hs
  cases hf : fetch s with
  | none =>
    rw [step_of_not_fetch hf]
    exact waitStep_safe hs
  | some ts =>
    obtain ⟨t, s₁⟩ := ts
    obtain ⟨hidle, rest, -, rfl⟩ := (fetch_eq_some_iff _ _ _).mp hf
    rw [step_of_fetch hf, exec_decode]
    exact transition_safe (withInput_safe hs rest) hidle t

/-- Settles O42: after reset there is no valid baseline and nothing on the ports. -/
theorem resetIsSafe : Obligations.ResetIsSafe where
  dedup    := inv_cleared valid_params _
  baseline := fun hv => nomatch hv
  records  := ⟨fun _ hr => absurd hr List.not_mem_nil, fun _ hr => nomatch hr⟩
  ordered  := ⟨fun _ _ _ heq => absurd heq (by simp [State.reset]), fun _ hl => nomatch hl⟩

/-- Settles O28: the values of Table R26, read off State.reset. -/
theorem resetValues : Obligations.ResetValues := ⟨rfl, rfl, rfl, rfl, rfl, rfl, rfl⟩

end Sys2Proof.Machine
end

section
/-! The frame of FRAME_SENSOR_2914, and the instruction that a table row's bits make the next one. -/

namespace Sys2Proof.Machine

/-- The transition on an outcome that is no Success keeps the DedupState and emits no LogRecord (R78, R79). -/
theorem onOutcome_of_not_success {p : Params} {d : DedupState} {o : DecodeOutcome}
    (h : ∀ f ts kt kc, o ≠ .success f ts kt kc) : (onOutcome p d o).dedup = d ∧ (onOutcome p d o).log = none := by
  rcases onOutcome_cases p d o with ⟨-, hr⟩ | ⟨f, ts, kt, kc, -, hr⟩ | ⟨f, ts, kt, kc, ho, -⟩
  · simp [hr]
  · simp [hr]
  · exact absurd ho (h f ts kt kc)

/-- A Success carries the timestamp DECODE was given (R67). -/
theorem decodeFrame_success_ts {h : PacketFrame} {ts ts' : Timestamp} {p : Params} {f : Reading} {kt kc : Nibble}
    (hs : decodeFrame h ts p = .success f ts' kt kc) : ts' = ts := by
  rcases decodeFrame_cases h ts p with ⟨-, ho⟩ | ⟨-, -, ho⟩ | ⟨-, -, ho⟩ <;> rw [ho] at hs
  · exact nomatch hs
  · exact nomatch hs
  · injection hs with _ hts
    exact hts.symm

/-- Settles O26: the meaning applies the result of R77, which has at most one DiagRecord, and a LogRecord only on a Success. -/
theorem sensorFrameLeavesRest : Obligations.SensorFrameLeavesRest := by
  intro s t h trail ts hexec
  obtain rfl : s.applyResult (onOutcome Config.params s.dedup (decodeFrame h ts)) = t := by
    simpa [exec, execFrameSensor2914] using hexec
  refine ⟨applyResult_input _ _, applyResult_logAcks _ _, applyResult_freeCount _ _, ?_, fun hno => ?_⟩
  · rw [applyResult_trace]
    cases (onOutcome Config.params s.dedup (decodeFrame h ts)).diag with
    | none => exact .inl (List.append_nil _)
    | some x => exact .inr ⟨x, rfl⟩
  · have hno' : ∀ f ts' kt kc, decodeFrame h ts ≠ .success f ts' kt kc := fun f ts' kt kc ho => by
      obtain rfl := decodeFrame_success_ts ho
      exact hno f kt kc ho
    obtain ⟨hdedup, hlog⟩ := onOutcome_of_not_success (p := Config.params) (d := s.dedup) hno'
    rw [applyResult_dedup, applyResult_logPending, hdedup, hlog]
    exact ⟨rfl, rfl⟩

/-- Presenting what is already to be presented changes nothing. -/
@[simp] theorem withInput_self (s : State) : s.withInput s.input = s := rfl

/-- A transaction made the next one is the one the block accepts, with the waiting LogRecord durable and the input as it was. -/
theorem fetch_presentNext (t : Transaction) (s : State) : fetch (presentNext t s) = some (t, s.logDurable) := by
  have hidle : (presentNext t s).logPending = none := by simp [presentNext]
  have hback : (presentNext t s).withInput s.input = s.logDurable := by
    rw [← logDurable_input s]
    exact withInput_self s.logDurable
  rw [fetch_of_idle hidle rfl, hback]

/-- Settles O52: withFetchWord presents the transaction whose decoding is i. -/
theorem tableWordRunsNext : Obligations.TableWordRunsNext := by
  intro s nbits w i hdec
  obtain ⟨t, ht, rfl⟩ := Option.map_eq_some_iff.mp hdec
  have hword : s.withFetchWord nbits w = presentNext t s := by simp [State.withFetchWord, ht]
  rw [hword, step_of_fetch (fetch_presentNext t s)]

end Sys2Proof.Machine
end

section
/-! The saturating run-length counter of R15 against the unbounded one. -/

namespace Sys2Proof

/-- The configuration with its run-length counter saturated at m (R15). -/
def Params.saturatedAt (p : Params) (m : Nat) : Params := { p with runLenSat := some m }

/-- No line is framed otherwise because the counter saturates. -/
theorem Machine.classify_saturatedAt (line : List Byte) (p : Params) (m : Nat) :
    Machine.classify line (p.saturatedAt m) = Machine.classify line p := rfl

/-- No frame is decoded otherwise because the counter saturates. -/
theorem Machine.decodeFrame_saturatedAt (h : PacketFrame) (ts : Timestamp) (p : Params) (m : Nat) :
    Machine.decodeFrame h ts (p.saturatedAt m) = Machine.decodeFrame h ts p := rfl

end Sys2Proof

namespace Sys2Proof.Machine

/-- The DedupState as the block with the counter saturated at m holds it. -/
def DedupState.capRun (m : Nat) (d : DedupState) : DedupState := { d with runLen := min d.runLen m }

/-- The result of a line as the block with the counter saturated at m gives it: the same records. -/
def StepResult.capRun (m : Nat) (r : StepResult) : StepResult := { r with dedup := r.dedup.capRun m }

@[simp] theorem equalBit_capRun (m : Nat) (d : DedupState) (f : Reading) : equalBit (d.capRun m) f = equalBit d f := rfl
@[simp] theorem capRun_runLen (m : Nat) (d : DedupState) : (d.capRun m).runLen = min d.runLen m := rfl

section
variable {p : Params} {m : Nat} (hsat : p.runLenSat = none) (htrig : p.skipTrigger ≤ m)
include hsat

/-- Saturating before or after the increment is the same. -/
theorem bumpRun_saturatedAt (n : Nat) : bumpRun (p.saturatedAt m) (min n m) = min (bumpRun p n) m := by
  simp only [bumpRun, Params.saturatedAt, hsat]
  omega

/-- The saturated run length is the unbounded one, saturated. -/
theorem nextRun_saturatedAt (d : DedupState) (f : Reading) :
    nextRun (p.saturatedAt m) (d.capRun m) f = min (nextRun p d f) m := by
  cases heq : equalBit d f with
  | false => simp [nextRun, heq]
  | true => simpa [nextRun, heq] using bumpRun_saturatedAt hsat d.runLen

include htrig

/-- Suppression mode is told as well from the saturated run length: SKIP_TRIGGER is at most m. -/
theorem inSuppression_saturatedAt (d : DedupState) (f : Reading) :
    inSuppression (p.saturatedAt m) (nextRun (p.saturatedAt m) (d.capRun m) f) = inSuppression p (nextRun p d f) := by
  rw [nextRun_saturatedAt hsat]
  exact decide_eq_decide.mpr ⟨fun h => (Nat.le_min.mp h).1, fun h => Nat.le_min.mpr ⟨h, htrig⟩⟩

/-- The skip counters agree. -/
theorem nextSkip_saturatedAt (d : DedupState) (f : Reading) :
    nextSkip (p.saturatedAt m) (d.capRun m) f = nextSkip p d f := by
  unfold nextSkip
  rw [inSuppression_saturatedAt hsat htrig, equalBit_capRun]
  rfl

/-- The emit signals agree. -/
theorem emitBit_saturatedAt (d : DedupState) (f : Reading) :
    emitBit (p.saturatedAt m) (d.capRun m) f = emitBit p d f := by
  unfold emitBit
  rw [inSuppression_saturatedAt hsat htrig, nextSkip_saturatedAt hsat htrig, equalBit_capRun]

/-- A Success in the saturated block is the Success of the unbounded one, saturated. -/
theorem successDedup_saturatedAt (d : DedupState) (f : Reading) :
    successDedup (p.saturatedAt m) (d.capRun m) f = (successDedup p d f).capRun m := by
  unfold successDedup
  rw [nextRun_saturatedAt hsat, nextSkip_saturatedAt hsat htrig]
  rfl

/-- The transition on an outcome commutes with saturation. -/
theorem onOutcome_saturatedAt (d : DedupState) (o : DecodeOutcome) :
    onOutcome (p.saturatedAt m) (d.capRun m) o = (onOutcome p d o).capRun m := by
  cases o with
  | unrecognizedSensor => rfl
  | checksumFailure f ts kt kc => rfl
  | success f ts kt kc =>
    simp only [onOutcome, successDedup_saturatedAt hsat htrig, emitBit_saturatedAt hsat htrig]
    rfl

/-- STEP_LINE commutes with saturation. -/
theorem stepLine_saturatedAt (d : DedupState) (line : List Byte) (ts : Timestamp) :
    stepLine (p.saturatedAt m) (d.capRun m) line ts = (stepLine p d line ts).capRun m := by
  unfold stepLine
  rw [classify_saturatedAt]
  cases classify line p with
  | blank => rfl
  | nonframe => rfl
  | frame h => exact onOutcome_saturatedAt hsat htrig d _

/-- A sequence of lines emits the same records. -/
theorem lineRecords_saturatedAt (d : DedupState) (ls : List (List Byte × Timestamp)) :
    lineRecords (p.saturatedAt m) (d.capRun m) ls = lineRecords p d ls := by
  induction ls generalizing d with
  | nil => rfl
  | cons l ls ih =>
    unfold lineRecords
    rw [stepLine_saturatedAt hsat htrig]
    exact congrArg _ (ih _)

/-- A sequence of lines ends in the same DedupState but for the saturated counter. -/
theorem runLines_saturatedAt (d : DedupState) (ls : List (List Byte × Timestamp)) :
    runLines (p.saturatedAt m) (d.capRun m) ls = (runLines p d ls).capRun m := by
  induction ls generalizing d with
  | nil => rfl
  | cons l ls ih =>
    unfold runLines
    rw [stepLine_saturatedAt hsat htrig]
    exact ih _

end

/-- Settles O46: by induction on the lines, each of which commutes with saturation. -/
theorem saturationUnobservable : Obligations.SaturationUnobservable := fun _ _ d ls hsat htrig =>
  ⟨lineRecords_saturatedAt hsat htrig d ls, runLines_saturatedAt hsat htrig d ls⟩

end Sys2Proof.Machine
end

section
/-! A previous_reading that is not valid (U1): states that differ only in it take the same step. -/

namespace Sys2Proof.Machine

/-- The state with another previous_reading. -/
def State.withReading (s : State) (r : Reading) : State := { s with dedup := { s.dedup with previousReading := r } }

/-- t is s, or differs from it only in a previous_reading, r, that is not valid. -/
def State.SameButStale (r : Reading) (s t : State) : Prop := t = s ∨ (s.dedup.prevValid = false ∧ t = s.withReading r)

/-- The wait reads no previous_reading. -/
theorem waitStep_withReading (s : State) (r : Reading) : waitStep (s.withReading r) = (waitStep s).withReading r := by
  rcases s with ⟨d, input, acks, pending, trace, free⟩
  cases pending with
  | some l => cases acks <;> rfl
  | none =>
    cases input with
    | nil => rfl
    | cons e rest => cases e <;> rfl

/-- Neither does the block when it accepts a transaction. -/
theorem fetch_withReading (s : State) (r : Reading) :
    fetch (s.withReading r) = (fetch s).map fun x => (x.1, x.2.withReading r) := by
  rcases s with ⟨d, input, acks, pending, trace, free⟩
  cases pending with
  | some l => rfl
  | none =>
    cases input with
    | nil => rfl
    | cons e rest => cases e <;> rfl

/-- The first Success is a change and is logged, whatever previous_reading holds (R80, R83). -/
theorem onOutcome_success_of_not_valid {d : DedupState} (hd : d.prevValid = false) (p : Params) (f : Reading)
    (ts : Timestamp) (kt kc : Nibble) :
    onOutcome p d (.success f ts kt kc)
      = ⟨⟨true, f, 0, 0⟩, some (diagRecord p .ok f ts kt kc), some (logRecord f ts)⟩ := by
  simp [onOutcome, successDedup, nextRun, nextSkip, emitBit, equalBit_of_not_valid hd f]

/-- A transaction that leaves a stale previous_reading unread: RST and a Success overwrite it, every other line keeps it. -/
theorem transition_withReading {s : State} (hs : s.dedup.prevValid = false) (p : Params) (r : Reading) (t : Transaction) :
    (s.transition p t).SameButStale r ((s.withReading r).transition p t) := by
  cases t with
  | rst => exact .inl rfl
  | line line ts =>
    obtain ⟨o, ho, -⟩ := stepLine_eq_onOutcome p line ts
    rw [transition_line, transition_line, ho, ho]
    cases o with
    | unrecognizedSensor => exact .inr ⟨hs, rfl⟩
    | checksumFailure f ts' kt kc => exact .inr ⟨hs, rfl⟩
    | success f ts' kt kc =>
      have hr : (s.withReading r).dedup.prevValid = false := hs
      rw [onOutcome_success_of_not_valid hs, onOutcome_success_of_not_valid hr]
      exact .inl rfl

/-- Settles O48: the wait leaves previous_reading alone, and a transaction does not read it while prev_valid is 0. -/
theorem staleReadingInvisible : Obligations.StaleReadingInvisible := by
  intro s r hs
  cases hf : fetch s with
  | none =>
    have hf' : fetch (s.withReading r) = none := by rw [fetch_withReading, hf]; rfl
    exact ⟨waitStep s, _, step_of_not_fetch hf, step_of_not_fetch hf',
      .inr ⟨by rwa [waitStep_dedup], waitStep_withReading s r⟩⟩
  | some ts =>
    obtain ⟨t, s₁⟩ := ts
    have hf' : fetch (s.withReading r) = some (t, s₁.withReading r) := by rw [fetch_withReading, hf]; rfl
    obtain ⟨-, rest, -, rfl⟩ := (fetch_eq_some_iff _ _ _).mp hf
    exact ⟨_, _, (step_of_fetch hf).trans (exec_decode t _), (step_of_fetch hf').trans (exec_decode t _),
      transition_withReading (s := s.withInput rest) hs Config.params r t⟩

end Sys2Proof.Machine
end

section
/-! The frame word of R45 and R46 nibble by nibble and byte by byte, and the direct form of the nibble swap (R31). -/

namespace Sys2Proof.Machine

/-! ### Base-16 numbers, most significant digit first -/

/-- The number whose n base-16 digits are d 0 to d (n-1), d 0 most significant, as `frameWord` reads them. -/
def hexNumber (d : Nat → Nat) (n : Nat) : Nat := (List.range n).foldl (fun w k => 16 * w + d k) 0

/-- The frame word is the number its 20 characters spell (R45). -/
theorem frameWord_eq_hexNumber (h : PacketFrame) :
    frameWord h = BitVec.ofNat 80 (hexNumber (fun k => (h.getD k 0).toNat) 20) := rfl

/-- A further digit goes to the low end. -/
theorem hexNumber_succ (d : Nat → Nat) (n : Nat) : hexNumber d (n + 1) = 16 * hexNumber d n + d n := by
  simp [hexNumber, List.range_succ]

/-- Digit k stands n - 1 - k places from the low end. -/
theorem hexNumber_digit {d : Nat → Nat} (hd : ∀ k, d k < 16) {n k : Nat} (hk : k < n) :
    hexNumber d n / 16 ^ (n - 1 - k) % 16 = d k := by
  induction n with
  | zero => exact absurd hk (Nat.not_lt_zero k)
  | succ n ih =>
    have hdn := hd n
    rw [hexNumber_succ]
    rcases Nat.lt_succ_iff_lt_or_eq.mp hk with hlt | rfl
    · have hshift : (16 * hexNumber d n + d n) / 16 = hexNumber d n := by omega
      rw [show n + 1 - 1 - k = n - 1 - k + 1 by omega, Nat.pow_succ', ← Nat.div_div_eq_div_mul, hshift, ih hlt]
    · rw [Nat.add_sub_cancel, Nat.sub_self, Nat.pow_zero, Nat.div_one]
      omega

/-- n digits give a number below 16^n. -/
theorem hexNumber_lt {d : Nat → Nat} (hd : ∀ k, d k < 16) (n : Nat) : hexNumber d n < 16 ^ n := by
  induction n with
  | zero => exact Nat.one_pos
  | succ n ih =>
    have hdn := hd n
    rw [hexNumber_succ, Nat.pow_succ]
    omega

/-! ### The frame word -/

/-- W[79-4k : 76-4k] is the value of character k (R45). -/
theorem frameWord_nibble (h : PacketFrame) {k : Nat} (hk : k < 20) :
    (frameWord h).extractLsb' (76 - 4 * k) 4 = h.getD k 0 := by
  have hd : ∀ k, (h.getD k 0).toNat < 16 := fun k => (h.getD k 0).isLt
  have hplace : 2 ^ (76 - 4 * k) = 16 ^ (20 - 1 - k) := by
    rw [show 76 - 4 * k = 4 * (20 - 1 - k) by omega, Nat.pow_mul]
  have hlt : hexNumber (fun k => (h.getD k 0).toNat) 20 < 2 ^ 80 := hexNumber_lt hd 20
  apply BitVec.eq_of_toNat_eq
  rw [BitVec.extractLsb'_toNat, frameWord_eq_hexNumber, BitVec.toNat_ofNat, Nat.mod_eq_of_lt hlt,
    Nat.shiftRight_eq_div_pow, hplace]
  exact hexNumber_digit hd hk

/-- Value k of the PacketFrame that spells w is W[79-4k : 76-4k]. -/
theorem ofFrameWord_getD (w : FrameWord) {k : Nat} (hk : k < 20) :
    (ofFrameWord w).getD k 0 = w.extractLsb' (76 - 4 * k) 4 := by
  simp [ofFrameWord, List.getD_eq_getElem?_getD, hk]

/-- Bit i of a frame word lies in the nibble of character 19 - i/4, so the 20 nibbles determine the word. -/
theorem frameWord_ext {v w : FrameWord}
    (h : ∀ k < 20, v.extractLsb' (76 - 4 * k) 4 = w.extractLsb' (76 - 4 * k) 4) : v = w := by
  refine BitVec.eq_of_getLsbD_eq fun i hi => ?_
  have hbit := congrArg (·.getLsbD (i % 4)) (h (19 - i / 4) (by omega))
  have hplace : 76 - 4 * (19 - i / 4) + i % 4 = i := by omega
  simpa [hplace, Nat.mod_lt] using hbit

/-- The PacketFrame that spells w has the frame word w. -/
theorem frameWord_ofFrameWord (w : FrameWord) : frameWord (ofFrameWord w) = w :=
  frameWord_ext fun _ hk => (frameWord_nibble _ hk).trans (ofFrameWord_getD w hk)

/-- W[79-8k : 72-8k] is byte k of the NibbleBuffer (R46). -/
theorem frameWord_byte (h : PacketFrame) {k : Nat} (hk : k < 10) :
    (frameWord h).extractLsb' (72 - 8 * k) 8 = (unpack h).getD k 0 := by
  have hhigh := frameWord_nibble h (k := 2 * k) (by omega)
  have hlow := frameWord_nibble h (k := 2 * k + 1) (by omega)
  rw [show 76 - 4 * (2 * k + 1) = 72 - 8 * k by omega] at hlow
  rw [unpack_getD h _ k hk, ← hhigh, ← hlow]
  rw [BitVec.extractLsb'_append_extractLsb'_eq_extractLsb' (by omega)]

/-- A byte is 16 times its high nibble plus its low nibble (R29). -/
theorem toNat_nibble_pair (a b : Nibble) : (a ++ b).toNat = 16 * a.toNat + b.toNat := by
  rw [BitVec.toNat_append, ← Nat.shiftLeft_add_eq_or_of_lt b.isLt, Nat.shiftLeft_eq, Nat.mul_comm]

/-- Settles O11: the nibbles of the frame word are the characters, its bytes are pairs of them, and its nibbles determine it. -/
theorem frameWordLayout : Obligations.FrameWordLayout := by
  refine ⟨fun line k => ?_, fun h k => ⟨frameWord_byte h k.isLt, ?_⟩, frameWord_ofFrameWord⟩
  · rw [frameWord_nibble _ k.isLt, packetFrame_getD line _ k k.isLt, frameTag_length]
  · rw [unpack_getD h _ k k.isLt, toNat_nibble_pair]

/-! ### The nibble swap -/

/-- Flipping the lowest bit of an index stays within a whole number of pairs. -/
theorem xor_one_lt_two_mul {i n : Nat} (hi : i < 2 * n) : i ^^^ 1 < 2 * n := by
  obtain ⟨k, rfl | rfl⟩ := Nat.even_or_odd' i
  · rw [two_mul_xor_one]
    omega
  · rw [two_mul_add_one_xor_one]
    omega

/-- Where the lengths agree, the character that NIB reads is one of the PacketFrame. -/
theorem getElem?_xor_one_eq_nib {p : Params} (hp : p.LengthsAgree) {h : PacketFrame} (hl : h.length = p.frameHexLen)
    {i : Nat} (hi : i < p.nibbleCount) : h[i ^^^ 1]? = some (nib (unpack h p) i p) := by
  have ⟨hchars, hpairs, _⟩ := hp
  have hlt : i ^^^ 1 < h.length := by
    rw [hl, hchars, hpairs]
    exact xor_one_lt_two_mul (hpairs ▸ hi)
  rw [nib_unpack h p hp i hi, List.getD_eq_getElem _ _ hlt, List.getElem?_eq_getElem hlt]

/-- Settles O10: the values of Table R6 are a configuration whose lengths agree. -/
theorem nibbleSwapDirectForm : Obligations.NibbleSwapDirectForm :=
  ⟨fun _ i hl => getElem?_xor_one_eq_nib lengthsAgree_params hl i.isLt,
    fun _ _ _ hp hl hi => getElem?_xor_one_eq_nib hp hl hi⟩

end Sys2Proof.Machine
end

section
/-! What one step takes and delivers, and a stream of lines worked off to its end. -/

namespace Sys2Proof.Machine

/-- A step waits, or is the transition on the transaction that an idle block accepts. -/
theorem step_wait_or_transition {s s' : State} (h : step s = .next s') :
    s' = waitStep s
    ∨ ∃ t rest, s.logPending = none ∧ s.input = .transaction t :: rest
        ∧ s' = (s.withInput rest).transition Config.params t := by
  cases hf : fetch s with
  | none =>
    rw [step_of_not_fetch hf] at h
    injection h with hs'
    exact .inl hs'.symm
  | some ts =>
    obtain ⟨t, s₁⟩ := ts
    obtain ⟨hidle, rest, hinput, rfl⟩ := (fetch_eq_some_iff _ _ _).mp hf
    rw [step_of_fetch hf, exec_decode] at h
    injection h with hs'
    exact .inr ⟨t, rest, hidle, hinput, hs'.symm⟩

/-- A transaction delivers nothing, or one DiagRecord. -/
theorem transition_trace (s : State) (p : Params) (t : Transaction) :
    (s.transition p t).trace = s.trace ∨ ∃ r, (s.transition p t).trace = s.trace ++ [.diag r] := by
  cases t with
  | rst => exact .inl rfl
  | line line ts =>
    rw [transition_line, applyResult_trace]
    cases (stepLine p s.dedup line ts).diag with
    | none => exact .inl (List.append_nil _)
    | some r => exact .inr ⟨r, rfl⟩

/-- Settles O36: a wait delivers at most the record that waits, a transaction at most a DiagRecord. -/
theorem outputsOnlyAppended : Obligations.OutputsOnlyAppended := by
  intro s s' h
  rcases step_wait_or_transition h with rfl | ⟨t, rest, -, -, rfl⟩
  · rcases waitStep_cases s with hw | ⟨r, n, hr, -, hw⟩ | ⟨-, e, rest, -, hw⟩ <;> rw [hw]
    · exact .inl rfl
    · exact .inr (.inr ⟨r, hr, rfl, rfl⟩)
    · exact .inl rfl
  · rcases transition_trace (s.withInput rest) Config.params t with htrace | hdiag
    · exact .inl htrace
    · exact .inr (.inl hdiag)

/-- Settles O37: a held block only waits, and its wait leaves it as it is or takes an acknowledgement. -/
theorem durableBeforeNextAccepted : Obligations.DurableBeforeNextAccepted := by
  intro s s' h r hr
  rw [step_of_not_fetch (fetch_of_held hr)] at h
  injection h with hs'
  subst hs'
  rcases waitStep_cases s with hw | ⟨r', n, hr', -, hw⟩ | ⟨hidle, -⟩
  · rw [hw]
    exact ⟨rfl, rfl, .inl hr⟩
  · obtain rfl : r = r' := Option.some.inj (hr.symm.trans hr')
    rw [hw]
    exact ⟨rfl, rfl, .inr ⟨rfl, by simp [State.durableLog, PortRecord.log?]⟩⟩
  · exact nomatch hr.symm.trans hidle

/-! ### Reaching a state -/

/-- Some number of steps leads from s to t. -/
def State.Reaches (s t : State) : Prop := ∃ k, core.run k s = .next t

/-- A run of k + 1 steps is a step and a run of k from its next state. -/
theorem run_succ_of_step {M : Host.Core} {s t : M.State} (h : M.step s = .next t) (k : Nat) :
    M.run (k + 1) s = M.run k t := by
  rw [Host.Core.run, h]

/-- A step, and then what its next state reaches. -/
theorem State.Reaches.step_trans {s t u : State} (h : step s = .next t) (htu : t.Reaches u) : s.Reaches u := by
  obtain ⟨k, hk⟩ := htu
  exact ⟨k + 1, (run_succ_of_step (M := core) h k).trans hk⟩

/-- A held block with an acknowledgement to come takes it (R106). -/
theorem step_of_acknowledged {s : State} {r : LogRecord} {n : Nat} (hr : s.logPending = some r)
    (hn : s.logAcks = n + 1) :
    step s = .next { s with logAcks := n, trace := s.trace ++ [.log r], logPending := none } := by
  rw [step_of_not_fetch (fetch_of_held hr)]
  simp [waitStep, hr, hn, State.logDurable]

/-! ### One line, and a stream of them -/

/-- The records of one line in port order: DIAG, then LOG (R85). -/
def StepResult.records (r : StepResult) : List PortRecord :=
  (r.diag.map PortRecord.diag).toList ++ (r.log.map PortRecord.log).toList

/-- A sequence of lines emits the records of its first line, then those of the rest (R38). -/
theorem lineRecords_cons (p : Params) (d : DedupState) (l : List Byte × Timestamp) (ls : List (List Byte × Timestamp)) :
    lineRecords p d (l :: ls)
      = (stepLine p d l.1 l.2).records ++ lineRecords p (stepLine p d l.1 l.2).dedup ls := rfl

/-- The log sink acknowledges the LogRecords among the records, which for one line is its LogRecord if it has one. -/
theorem records_filterMap_log (r : StepResult) : r.records.filterMap PortRecord.log? = r.log.toList := by
  rcases r with ⟨d, _ | x, _ | y⟩ <;> rfl

/-- An idle block after a line's step of R5 is complete: its result stored, its records delivered, the acknowledgement of its
LogRecord used up, and the rest of the input to come. -/
def State.afterLine (s : State) (r : StepResult) (rest : List HostEvent) : State where
  dedup      := r.dedup
  input      := rest
  logAcks    := s.logAcks - r.log.toList.length
  logPending := none
  trace      := s.trace ++ r.records
  freeCount  := s.freeCount

/-- What an idle block holds once a result has been given to the registers and the ports. -/
theorem applyResult_of_idle {s : State} (hidle : s.logPending = none) (r : StepResult) :
    s.applyResult r = { s with
      dedup := r.dedup, logPending := r.log, trace := s.trace ++ (r.diag.map PortRecord.diag).toList } := by
  rcases s with ⟨d, input, acks, pending, trace, free⟩
  rcases r with ⟨d', diag, log⟩
  subst hidle
  cases diag <;> cases log <;> simp [State.applyResult, State.withDedup, State.diagWrite, State.logWrite]

/-- From an idle block with a line presented, what the block reaches after the line's step of R5 it reaches: the line's own step,
and the wait for its LogRecord if it has one (R38, R106). -/
theorem reaches_of_afterLine {s u : State} {line : List Byte} {ts : Timestamp} {rest : List HostEvent}
    (hidle : s.logPending = none) (hinput : s.input = .transaction (.line line ts) :: rest)
    (hacks : (stepLine Config.params s.dedup line ts).log.toList.length ≤ s.logAcks)
    (hu : (s.afterLine (stepLine Config.params s.dedup line ts) rest).Reaches u) : s.Reaches u := by
  have hstep : step s = .next ((s.withInput rest).applyResult (stepLine Config.params s.dedup line ts)) :=
    (step_of_fetch (fetch_of_idle hidle hinput)).trans (exec_decode _ _)
  generalize stepLine Config.params s.dedup line ts = r at hacks hu hstep
  rw [applyResult_of_idle (s := s.withInput rest) hidle] at hstep
  refine .step_trans hstep ?_
  cases hlog : r.log with
  | none => simpa [State.afterLine, StepResult.records, hlog] using hu
  | some x =>
    obtain ⟨n, hn⟩ : ∃ n, s.logAcks = n + 1 := Nat.exists_eq_add_of_le' (by simpa [hlog] using hacks)
    refine .step_trans (step_of_acknowledged rfl hn) ?_
    simpa [State.afterLine, StepResult.records, hlog, hn] using hu

/-- Settles O44, by induction on the lines: after each one the block is idle, with the acknowledgements the rest needs. -/
theorem streamRunsToEnd : Obligations.StreamRunsToEnd := by
  intro s ls
  induction ls generalizing s with
  | nil =>
    intro hidle hinput _
    exact ⟨0, s, rfl, hinput, hidle, rfl, (List.append_nil _).symm, rfl⟩
  | cons l ls ih =>
    intro hidle hinput hacks
    rw [lineRecords_cons, List.filterMap_append, List.length_append, records_filterMap_log] at hacks
    obtain ⟨k, t, hrun, hend, hport, hdedup, htrace, hfree⟩ :=
      ih (s.afterLine (stepLine Config.params s.dedup l.1 l.2) (ls.map fun l => .transaction (.line l.1 l.2)))
        rfl rfl (Nat.le_sub_of_add_le' hacks)
    obtain ⟨k', hrun'⟩ := reaches_of_afterLine hidle hinput (by omega) ⟨k, hrun⟩
    refine ⟨k', t, hrun', hend, hport, hdedup, ?_, hfree⟩
    rw [htrace, lineRecords_cons, ← List.append_assoc]
    rfl

end Sys2Proof.Machine
end

section
/-! The character classes of R42 and R44 and the frame-line format of R43, byte by byte. -/

namespace Sys2Proof.Machine

/-! ### Characters -/

/-- WS is the six bytes of R42. -/
theorem isWS_iff_mem (c : Byte) : isWS c = true ↔ c ∈ ([0x09, 0x0A, 0x0B, 0x0C, 0x0D, 0x20] : List Byte) := by
  simp [isWS, or_assoc]

/-- The two ranges of R44. -/
theorem isUpperHex_iff (c : Byte) : isUpperHex c = true ↔ (0x30 ≤ c ∧ c ≤ 0x39) ∨ (0x41 ≤ c ∧ c ≤ 0x46) := by
  simp [isUpperHex]

/-- The value of a decimal digit (R44). -/
theorem hexval_toNat_of_digit {c : Byte} (hlo : 0x30 ≤ c) (hhi : c ≤ 0x39) : (hexval c).toNat = c.toNat - 0x30 := by
  rw [hexval, if_pos hhi]
  bv_omega

/-- The value of an upper-case letter (R44). -/
theorem hexval_toNat_of_letter {c : Byte} (hlo : 0x41 ≤ c) (hhi : c ≤ 0x46) : (hexval c).toNat = c.toNat - 0x37 := by
  rw [hexval, if_neg (by bv_omega)]
  bv_omega

/-- The lower-case letters lie above both ranges of R44. -/
theorem isUpperHex_of_lowerCase {c : Byte} (hlo : 0x61 ≤ c) : isUpperHex c = false := by
  rw [← Bool.not_eq_true, isUpperHex_iff]
  bv_omega

/-- Settles O6: the two sets, and the value on each of the two ranges. -/
theorem characterClasses : Obligations.CharacterClasses := fun c =>
  ⟨isWS_iff_mem c, isUpperHex_iff c, hexval_toNat_of_digit, hexval_toNat_of_letter,
    fun hlo _ => isUpperHex_of_lowerCase hlo⟩

/-! ### A line by positions -/

/-- A check on everything from position m on. -/
theorem all_drop_iff {α : Type} (l : List α) (f : α → Bool) (m : Nat) :
    (l.drop m).all f = true ↔ ∀ k c, m ≤ k → l[k]? = some c → f c = true := by
  simp only [List.all_eq_true, List.mem_iff_getElem?, List.getElem?_drop]
  constructor
  · intro h k c hm hk
    exact h c ⟨k - m, by rwa [Nat.add_sub_cancel' hm]⟩
  · rintro h c ⟨j, hj⟩
    exact h (m + j) c (Nat.le_add_right m j) hj

/-- A check on the n entries from position m on. -/
theorem all_take_drop_iff {α : Type} (l : List α) (f : α → Bool) (m n : Nat) :
    ((l.drop m).take n).all f = true ↔ ∀ k c, m ≤ k → k < m + n → l[k]? = some c → f c = true := by
  rw [List.take_drop, all_drop_iff]
  simp only [List.getElem?_take, Option.ite_none_right_eq_some, and_imp]

/-- A line opens with the tag exactly when its bytes 0 to 4 are those of Table R43. -/
theorem take_eq_frameTag_iff (bytes : List Byte) :
    bytes.take 5 = Config.params.frameTag ↔ bytes[0]? = some 0x4F ∧ bytes[1]? = some 0x53 ∧ bytes[2]? = some 0x56
      ∧ bytes[3]? = some 0x33 ∧ bytes[4]? = some 0x20 := by
  rw [eq_comm, ← frameTag_length, ← List.prefix_iff_eq_take, List.prefix_iff_getElem?]
  refine ⟨fun h => ⟨h 0 (by decide), h 1 (by decide), h 2 (by decide), h 3 (by decide), h 4 (by decide)⟩, ?_⟩
  rintro ⟨h₀, h₁, h₂, h₃, h₄⟩ i hi
  rw [frameTag_length] at hi
  interval_cases i <;> assumption

/-- Settles O5: the tests of `isFrameLine_iff`, each read by positions. -/
theorem frameLineFormat : Obligations.FrameLineFormat := fun bytes => by
  rw [isFrameLine_iff, take_eq_frameTag_iff, all_take_drop_iff, all_drop_iff]
  simp only [and_assoc, Nat.reduceAdd]

end Sys2Proof.Machine
end

section
/-! The nibble map of Table R47, and the fields of R49 to R53 from nibbles, characters and the frame word. -/

namespace Sys2Proof.Machine

/-- Nibble i is the frame word's nibble of character i XOR 1 (R31, R45). -/
theorem nib_eq_frameWord (h : PacketFrame) {i : Nat} (hi : i < 20) :
    nib (unpack h) i = (frameWord h).extractLsb' (76 - 4 * (i ^^^ 1)) 4 := by
  rw [nib_eq h i hi, frameWord_nibble h (xor_one_lt_two_mul (n := 10) hi)]

/-- Settles O12: the column "W bits" holds 76 - 4 (i XOR 1) for nibble i. -/
theorem nibbleMapTable : Obligations.NibbleMapTable := by
  intro h
  have hcolumn : [72, 76, 64, 68, 56, 60, 48, 52, 40, 44, 32, 36, 24, 28, 16, 20, 8, 12, 0, 4]
      = (List.range 20).map fun i => 76 - 4 * (i ^^^ 1) := by decide
  rw [hcolumn, List.map_map]
  exact List.map_congr_left fun i hi => nib_eq_frameWord h (List.mem_range.mp hi)

/-! ### The binary fields -/

/-- sensor_id is nibbles 1 to 4 behind one another (R49). -/
theorem sensorId_eq_append (b : NibbleBuffer) : sensorId b = nib b 1 ++ nib b 2 ++ nib b 3 ++ nib b 4 := by
  rw [← BitVec.setWidth_eq (nib b 1 ++ nib b 2 ++ nib b 3 ++ nib b 4),
    BitVec.setWidth_append_append_append_eq_shiftLeft_setWidth_or]
  rfl

/-- rolling_code is nibbles 6 and 7 behind one another (R50). -/
theorem rollingCode_eq_append (b : NibbleBuffer) : rollingCode b = nib b 6 ++ nib b 7 := by
  rw [← BitVec.setWidth_eq (nib b 6 ++ nib b 7), BitVec.setWidth_append_eq_shiftLeft_setWidth_or]
  rfl

/-- A nibble put behind a word of any width is one more base-16 digit. -/
theorem toNat_append_nibble {n : Nat} (a : BitVec n) (d : Nibble) : (a ++ d).toNat = 16 * a.toNat + d.toNat := by
  rw [BitVec.toNat_append, ← Nat.shiftLeft_add_eq_or_of_lt d.isLt, Nat.shiftLeft_eq, Nat.mul_comm]

/-- sensor_id from the frame word (R49). -/
theorem sensorId_eq_frameWord (h : PacketFrame) :
    sensorId (unpack h) = (frameWord h).extractLsb' 76 4 ++ (frameWord h).extractLsb' 64 4
      ++ (frameWord h).extractLsb' 68 4 ++ (frameWord h).extractLsb' 56 4 := by
  simp [sensorId_eq_append, nib_eq_frameWord]

/-- Settles O13: the fields are nibbles behind one another, and each nibble is a character and a nibble of the frame word. -/
theorem binaryFieldAssembly : Obligations.BinaryFieldAssembly := by
  intro h
  refine ⟨?_, ?_, sensorId_eq_frameWord h, ?_, ?_⟩
  · simp only [sensorId_eq_append, toNat_append_nibble]
    omega
  · simp [sensorId_eq_append, nib_eq]
  · rw [rollingCode_eq_append, toNat_append_nibble]
  · simp [rollingCode_eq_append, nib_eq]

/-! ### The decimal fields -/

/-- rain_rate_milli in its 18 bits is the weighted sum of R51. -/
theorem rainRate_toNat_eq_digits (b : NibbleBuffer) :
    (rainRate b).toNat = (nib b 8).toNat + (nib b 9).toNat * 10 + (nib b 10).toNat * 100 + (nib b 11).toNat * 1000
      + (nib b 12).toNat * 10000 := by
  rw [rainRate_toNat, rainRateSum]
  ring

/-- rain_total_milli in its 21 bits is the weighted sum of R52. -/
theorem rainTotal_toNat_eq_digits (b : NibbleBuffer) :
    (rainTotal b).toNat = (nib b 13).toNat + (nib b 14).toNat * 10 + (nib b 15).toNat * 100 + (nib b 16).toNat * 1000
      + (nib b 17).toNat * 10000 + (nib b 18).toNat * 100000 := by
  rw [rainTotal_toNat, rainTotalSum]
  ring

/-- Settles O14: the sums over nibbles, and `nib_eq` for the characters. -/
theorem decimalFieldAssembly : Obligations.DecimalFieldAssembly := by
  intro h
  refine ⟨rainRate_toNat_eq_digits _, ?_, rainTotal_toNat_eq_digits _, ?_, rfl, nib_eq h 19 (by decide)⟩
  · simp [rainRate_toNat_eq_digits, nib_eq]
  · simp [rainTotal_toNat_eq_digits, nib_eq]

end Sys2Proof.Machine
end

section
/-! The class map of R54: the decoder on each class of line, and the mask and match that tell the two frame classes apart. -/

namespace Sys2Proof.Machine

/-! ### The decoder on each class of line -/

/-- Class 1: a blank line. -/
theorem decode_of_isBlank {line : List Byte} (hb : isBlank line = true) (ts : Timestamp) (p : Params) :
    decode (.line line ts) p = .lineBlank line ts := by
  simp only [decode, classify_of_blank hb]

/-- Class 2: a line neither blank nor of the format R43. -/
theorem decode_of_not_isFrameLine {line : List Byte} {p : Params} (hb : isBlank line = false)
    (hf : isFrameLine line p = false) (ts : Timestamp) : decode (.line line ts) p = .lineNonframe line ts := by
  simp [decode, classify_of_not_blank hb, hf]

/-- Classes 3 and 4: a frame line, by its sensor. -/
theorem decode_of_isFrameLine {line : List Byte} {p : Params} (hb : isBlank line = false)
    (hf : isFrameLine line p = true) (ts : Timestamp) :
    decode (.line line ts) p =
      if isSupported (unpack (packetFrame line p) p) p then .frameSensor2914 (packetFrame line p) (line.drop p.frameLen) ts
      else .frameUnrecognized (packetFrame line p) (line.drop p.frameLen) ts := by
  simp only [decode, classify_of_not_blank hb, hf, if_true]

/-- A blank line is not a frame line (R54). -/
theorem isFrameLine_of_isBlank {line : List Byte} (hb : isBlank line = true) : isFrameLine line = false := by
  by_contra hf
  rw [isBlank_of_isFrameLine (Bool.eq_true_of_not_eq_false hf)] at hb
  exact Bool.false_ne_true hb

/-- DECODE ends in UnrecognizedSensor exactly on a sensor that is not supported (R66). -/
theorem decodeFrame_eq_unrecognizedSensor_iff (h : PacketFrame) (ts : Timestamp) (p : Params) :
    decodeFrame h ts p = .unrecognizedSensor ↔ isSupported (unpack h p) p = false := by
  rcases decodeFrame_cases h ts p with ⟨hs, ho⟩ | ⟨hs, -, ho⟩ | ⟨hs, -, ho⟩ <;> simp [hs, ho]

/-! ### The mask and match of the sensor -/

/-- The mask keeps the four nibbles of sensor_id whole and clears the others, so the match holds nibble by nibble. -/
theorem masked_eq_match_iff (w : FrameWord) :
    w &&& 0xF0FF0F00000000000000 = 0x20190400000000000000 ↔
      w.extractLsb' 76 4 = 2 ∧ w.extractLsb' 64 4 = 9 ∧ w.extractLsb' 68 4 = 1 ∧ w.extractLsb' 56 4 = 4 := by
  have hkept (x : Nibble) : x &&& 15#4 = x := BitVec.and_allOnes
  constructor
  · intro h
    have hnibble (lo : Nat) : w.extractLsb' lo 4 &&& (0xF0FF0F00000000000000 : FrameWord).extractLsb' lo 4
        = (0x20190400000000000000 : FrameWord).extractLsb' lo 4 := by
      rw [← BitVec.extractLsb'_and, h]
    exact ⟨by simpa [hkept] using hnibble 76, by simpa [hkept] using hnibble 64, by simpa [hkept] using hnibble 68,
      by simpa [hkept] using hnibble 56⟩
  · rintro ⟨h₀, h₃, h₂, h₅⟩
    refine frameWord_ext fun k hk => ?_
    rw [BitVec.extractLsb'_and]
    interval_cases k <;> simp [h₀, h₂, h₃, h₅]

/-- The sensor test on the frame word (R54). -/
theorem sensorId_eq_iff_masked (h : PacketFrame) :
    sensorId (unpack h) = 0x2914 ↔ frameWord h &&& 0xF0FF0F00000000000000 = 0x20190400000000000000 := by
  rw [masked_eq_match_iff, sensorId_eq_frameWord]
  simp only [← BitVec.toNat_inj, toNat_append_nibble, BitVec.ofNat_eq_ofNat, BitVec.toNat_ofNat]
  omega

/-- IS_SUPPORTED on the frame word (R54, R60). -/
theorem isSupported_iff_masked (h : PacketFrame) :
    isSupported (unpack h) = true ↔ frameWord h &&& 0xF0FF0F00000000000000 = 0x20190400000000000000 :=
  decide_eq_true_iff.trans (sensorId_eq_iff_masked h)

/-- Settles O4: the decoder class by class, with the sensor test read off the frame word. -/
theorem classMapOfLines : Obligations.ClassMapOfLines := by
  intro line ts
  refine ⟨fun hb => ⟨decode_of_isBlank hb ts _, isFrameLine_of_isBlank hb⟩,
    fun hb hf => decode_of_not_isFrameLine hb hf ts, fun hf => ⟨sensorId_eq_iff_masked _, ?_⟩, fun _ => rfl⟩
  simp only [decode_of_isFrameLine (isBlank_of_isFrameLine hf) hf, ← isSupported_iff_masked, ne_eq,
    decodeFrame_eq_unrecognizedSensor_iff]
  cases isSupported (unpack (packetFrame line)) <;> simp

end Sys2Proof.Machine
end

section
/-! A frame with one nibble replaced: which nibbles, which fields and which outcome of DECODE change with it (R64, R66, C7). -/

namespace Sys2Proof.Machine

/-- What CHECKSUM answers as computed_checksum (R64). -/
@[simp] theorem checksum_computed (b : NibbleBuffer) (p : Params) : (checksum b p).computed = computedChecksum b p := rfl

/-- `ok` is the equality of the two checksum nibbles (R64). -/
theorem checksum_ok_iff (b : NibbleBuffer) (p : Params) :
    (checksum b p).ok = true ↔ (checksum b p).computed = nib b 19 p := by
  simp [checksum]

/-- Settles O17: the sensor test and the checksum test of `decodeFrame_cases`, at the values of Table R6. -/
theorem decodeOutcomes : Obligations.DecodeOutcomes := by
  intro h ts
  have hsensor : isSupported (unpack h) = true ↔ sensorId (unpack h) = 0x2914 := decide_eq_true_iff
  rw [checksum_computed]
  rcases decodeFrame_cases h ts Config.params with ⟨hs, ho⟩ | ⟨hs, hck, ho⟩ | ⟨hs, hck, ho⟩
  · rw [ho, if_pos (by rw [ne_eq, ← hsensor, hs]; decide)]
  · rw [ho, if_neg (not_not_intro (hsensor.mp hs)), if_neg hck]
    rfl
  · rw [ho, if_neg (not_not_intro (hsensor.mp hs)), if_pos hck]
    rfl

/-! ### The nibbles of a re-spelt frame -/

/-- The re-spelt frame has v as its nibble i. -/
theorem nib_respell_same {h : PacketFrame} (hl : h.length = 20) {i : Nat} (hi : i < 20) (v : Nibble) :
    nib (unpack (respell h i v)) i = v := by
  have hlt : i ^^^ 1 < h.length := hl ▸ xor_one_lt_two_mul (n := 10) hi
  rw [nib_eq _ i hi, respell, List.getD_eq_getElem?_getD, List.getElem?_set_self hlt, Option.getD_some]

/-- Its other nibbles are those of the frame. -/
theorem nib_respell_of_ne (h : PacketFrame) {i j : Nat} (hj : j < 20) (hij : i ≠ j) (v : Nibble) :
    nib (unpack (respell h i v)) j = nib (unpack h) j := by
  rw [nib_eq _ j hj, nib_eq _ j hj, respell, List.getD_eq_getElem?_getD, List.getElem?_set_ne (Nat.xor_left_inj.not.mpr hij),
    ← List.getD_eq_getElem?_getD]

/-! ### What each part of DECODE reads -/

/-- sensor_id says what nibbles 1 to 4 are, and nothing else (R49). -/
theorem sensorId_eq_iff (b b' : NibbleBuffer) :
    sensorId b = sensorId b' ↔ ∀ i, 1 ≤ i → i ≤ 4 → nib b i = nib b' i := by
  rw [sensorId_eq_append, sensorId_eq_append]
  constructor
  · intro heq i hlo hhi
    simp only [← BitVec.toNat_inj, toNat_append_nibble] at heq ⊢
    interval_cases i <;> omega
  · intro hnib
    rw [hnib 1, hnib 2, hnib 3, hnib 4] <;> decide

/-- The checksum sums the indices 1 to 18 (R64). -/
theorem mem_summedNibbles (i : Nat) : i ∈ summedNibbles ↔ 1 ≤ i ∧ i ≤ 18 := by
  simp only [summedNibbles, List.mem_cons, List.not_mem_nil, or_false]
  omega

/-- The checksum reads nibbles 1 to 18 alone (R64). -/
theorem computedChecksum_congr {b b' : NibbleBuffer} (hnib : ∀ k, 1 ≤ k → k ≤ 18 → nib b k = nib b' k) :
    computedChecksum b = computedChecksum b' := by
  have hsum : checksumSum b = checksumSum b' := by
    refine congrArg List.sum (List.map_congr_left fun k hk => ?_)
    obtain ⟨hlo, hhi⟩ := (mem_summedNibbles k).mp hk
    rw [hnib k hlo hhi]
  rw [computedChecksum, computedChecksum, hsum]

/-- The fields of a frame read nibbles 1 to 19 alone: nibble 0 is in none of them (R50 to R52). -/
theorem fieldsOf_congr {b b' : NibbleBuffer} (hnib : ∀ k, 1 ≤ k → k ≤ 19 → nib b k = nib b' k) :
    fieldsOf b = fieldsOf b' := by
  have hk (k : Nat) (h : 1 ≤ k ∧ k ≤ 19 := by decide) : nib b k = nib b' k := hnib k h.1 h.2
  simp only [fieldsOf, rollingCode, rainTotal, rainTotalSum, rainRate, rainRateSum, hk 6, hk 7, hk 8, hk 9, hk 10, hk 11,
    hk 12, hk 13, hk 14, hk 15, hk 16, hk 17, hk 18]

/-- DECODE does not read nibble 0 (R66). -/
theorem decodeFrame_congr {h h' : PacketFrame} (hnib : ∀ k, 1 ≤ k → k ≤ 19 → nib (unpack h) k = nib (unpack h') k)
    (ts : Timestamp) : decodeFrame h ts = decodeFrame h' ts := by
  have hsensor : isSupported (unpack h) = isSupported (unpack h') := by
    rw [isSupported, isSupported, (sensorId_eq_iff _ _).mpr fun k hlo hhi => hnib k hlo (by omega)]
  have hck : checksum (unpack h) = checksum (unpack h') := by
    rw [checksum, checksum, computedChecksum_congr fun k hlo hhi => hnib k hlo (by omega), hnib 19 (by decide) (by decide)]
  simp only [decodeFrame, hsensor, hck, fieldsOf_congr hnib]

/-! ### The checksum of a re-spelt frame -/

/-- The exact sum gains v and loses the nibble that v replaces. -/
theorem checksumSum_respell {h : PacketFrame} (hl : h.length = 20) {i : Nat} (hlo : 1 ≤ i) (hhi : i ≤ 18) (v : Nibble) :
    checksumSum (unpack (respell h i v)) + (nib (unpack h) i).toNat = checksumSum (unpack h) + v.toNat := by
  have hi : i ∈ summedNibbles.toFinset := List.mem_toFinset.mpr ((mem_summedNibbles i).mpr ⟨hlo, hhi⟩)
  have hrest : ∑ k ∈ summedNibbles.toFinset.erase i, (nib (unpack (respell h i v)) k).toNat
      = ∑ k ∈ summedNibbles.toFinset.erase i, (nib (unpack h) k).toNat := by
    refine Finset.sum_congr rfl fun k hk => ?_
    obtain ⟨hne, hmem⟩ := Finset.mem_erase.mp hk
    obtain ⟨-, hk18⟩ := (mem_summedNibbles k).mp (List.mem_toFinset.mp hmem)
    rw [nib_respell_of_ne h (by omega) hne.symm]
  have hnodup : summedNibbles.Nodup := by decide
  rw [checksumSum, checksumSum, ← List.sum_toFinset _ hnodup, ← List.sum_toFinset _ hnodup, ← Finset.add_sum_erase _ _ hi,
    ← Finset.add_sum_erase _ _ hi, hrest, nib_respell_same hl (by omega)]
  ring

/-- The checksum sees every change of a summed nibble: two nibbles that agree modulo 16 are the same (R55, R64). -/
theorem computedChecksum_respell_eq_iff {h : PacketFrame} (hl : h.length = 20) {i : Nat} (hlo : 1 ≤ i) (hhi : i ≤ 18)
    (v : Nibble) : computedChecksum (unpack (respell h i v)) = computedChecksum (unpack h) ↔ v = nib (unpack h) i := by
  have hsum := checksumSum_respell hl hlo hhi v
  rw [← BitVec.toNat_inj, ← BitVec.toNat_inj, computedChecksum_toNat, computedChecksum_toNat]
  omega

/-- It sees no change of nibble 0 or 19. -/
theorem computedChecksum_respell_of_not_summed (h : PacketFrame) {i : Nat} (hi : ¬ (1 ≤ i ∧ i ≤ 18)) (v : Nibble) :
    computedChecksum (unpack (respell h i v)) = computedChecksum (unpack h) :=
  computedChecksum_congr fun k hlo hhi => nib_respell_of_ne h (by omega) (by rintro rfl; exact hi ⟨hlo, hhi⟩) v

/-- Settles O16: the sum by its definition, and the two lemmas above for a nibble that is summed and one that is not. -/
theorem checksumOfNibbles : Obligations.ChecksumOfNibbles := by
  intro h hl
  refine ⟨?_, checksum_ok_iff _ _, fun i v => ?_⟩
  · have hindices : summedNibbles = (List.range 18).map (· + 1) := by decide
    rw [checksum_computed, computedChecksum_toNat, checksumSum, hindices, List.map_map]
    rfl
  · by_cases hi : 1 ≤ i.val ∧ i.val ≤ 18
    · obtain ⟨hlo, hhi⟩ := hi
      simp [hlo, hhi, computedChecksum_respell_eq_iff hl hlo hhi]
    · simp [computedChecksum_respell_of_not_summed h hi, ← and_assoc, hi]

/-! ### The outcome of a re-spelt frame -/

/-- DECODE ends in Success only on the supported sensor with a right checksum (R66). -/
theorem sensor_and_checksum_of_success {h : PacketFrame} {ts ts' : Timestamp} {f : Reading} {kt kc : Nibble}
    (hs : decodeFrame h ts = .success f ts' kt kc) :
    sensorId (unpack h) = 0x2914 ∧ computedChecksum (unpack h) = nib (unpack h) 19 := by
  rcases decodeFrame_cases h ts Config.params with ⟨-, ho⟩ | ⟨-, -, ho⟩ | ⟨hsup, hck, -⟩
  · exact nomatch ho.symm.trans hs
  · exact nomatch ho.symm.trans hs
  · exact ⟨of_decide_eq_true hsup, hck⟩

/-- A changed nibble from 5 on breaks a right checksum: it changes the sum or the nibble the sum is compared with. -/
theorem computedChecksum_respell_ne {h : PacketFrame} (hl : h.length = 20)
    (hck : computedChecksum (unpack h) = nib (unpack h) 19) {i : Nat} (hlo : 1 ≤ i) (hi : i < 20) {v : Nibble}
    (hv : v ≠ nib (unpack h) i) :
    computedChecksum (unpack (respell h i v)) ≠ nib (unpack (respell h i v)) 19 := by
  obtain rfl | hhi : i = 19 ∨ i ≤ 18 := by omega
  · rw [computedChecksum_respell_of_not_summed h (by decide), nib_respell_same hl hi, hck]
    exact hv.symm
  · rw [nib_respell_of_ne h (by decide) (by omega), ← hck, ne_eq, computedChecksum_respell_eq_iff hl hlo hhi]
    exact hv

/-- Settles O18: nibble 0 is read by no part of DECODE, nibbles 1 to 4 are the sensor's, and a change of any later one leaves
the sensor and breaks the checksum. -/
theorem singleNibbleChange : Obligations.SingleNibbleChange := by
  intro h ts f kt kc hs hl i v hv
  obtain ⟨hsensor, hck⟩ := sensor_and_checksum_of_success hs
  refine ⟨fun h0 => ?_, fun hlo hhi => ?_, fun hlo => ?_⟩
  · rw [← hs]
    exact decodeFrame_congr (fun k hk hk' => nib_respell_of_ne h (by omega) (by omega) v) ts
  · have hother : sensorId (unpack (respell h i v)) ≠ 0x2914 := by
      rw [← hsensor, ne_eq, sensorId_eq_iff]
      intro hnib
      exact hv (by rw [← hnib i hlo hhi, nib_respell_same hl i.isLt])
    rw [decodeOutcomes, if_pos hother]
  · have hsame : sensorId (unpack (respell h i v)) = 0x2914 := by
      rw [← hsensor, sensorId_eq_iff]
      exact fun k _ hk => nib_respell_of_ne h (by omega) (by omega) v
    rw [decodeOutcomes, if_neg (not_not_intro hsame), checksum_computed,
      if_neg (computedChecksum_respell_ne hl hck (by omega) i.isLt hv)]
    exact ⟨_, _, _, rfl⟩

end Sys2Proof.Machine
end

section
/-! Timestamps as passthrough values (R67): every operation commutes with a replacement of the timestamps. -/

namespace Sys2Proof.Machine

/-- Replace the timestamp of DECODE's outcome. -/
def DecodeOutcome.mapTs (g : Timestamp → Timestamp) : DecodeOutcome → DecodeOutcome
  | .success f ts kt kc => .success f (g ts) kt kc
  | .checksumFailure f ts kt kc => .checksumFailure f (g ts) kt kc
  | .unrecognizedSensor => .unrecognizedSensor

/-- Replace the timestamps of the records of a line. -/
def StepResult.mapTs (g : Timestamp → Timestamp) (r : StepResult) : StepResult where
  dedup := r.dedup
  diag  := r.diag.map fun x => { x with ts := g x.ts }
  log   := r.log.map (mapLogTs g)

section
variable (g : Timestamp → Timestamp)

/-- DECODE hands its timestamp through (R67). -/
theorem decodeFrame_mapTs (h : PacketFrame) (ts : Timestamp) (p : Params) :
    decodeFrame h (g ts) p = (decodeFrame h ts p).mapTs g := by
  simp only [decodeFrame, apply_ite (DecodeOutcome.mapTs g)]
  rfl

/-- The transition on an outcome puts the timestamp into its records and nowhere else. -/
theorem onOutcome_mapTs (p : Params) (d : DedupState) (o : DecodeOutcome) :
    onOutcome p d (o.mapTs g) = (onOutcome p d o).mapTs g := by
  cases o with
  | unrecognizedSensor => rfl
  | checksumFailure f ts kt kc => rfl
  | success f ts kt kc =>
    simp only [onOutcome, DecodeOutcome.mapTs, StepResult.mapTs]
    cases emitBit p d f <;> rfl

/-- So does STEP_LINE. -/
theorem stepLine_mapTs (p : Params) (d : DedupState) (line : List Byte) (ts : Timestamp) :
    stepLine p d line (g ts) = (stepLine p d line ts).mapTs g := by
  unfold stepLine
  cases classify line p with
  | blank => rfl
  | nonframe => rfl
  | frame h => simp only [decodeFrame_mapTs, onOutcome_mapTs]

/-- The ports take the records as they are. -/
theorem applyResult_mapTs (s : State) (r : StepResult) :
    (s.mapTs g).applyResult (r.mapTs g) = (s.applyResult r).mapTs g := by
  rcases r with ⟨d, diag, log⟩
  cases diag <;> cases log <;>
    simp [State.applyResult, StepResult.mapTs, State.mapTs, State.withDedup, State.diagWrite, State.logWrite, mapRecordTs]

/-- A transaction reads no timestamp. -/
theorem transition_mapTs (s : State) (p : Params) (t : Transaction) :
    (s.mapTs g).transition p (mapTransactionTs g t) = (s.transition p t).mapTs g := by
  cases t with
  | rst => rfl
  | line line ts => exact (congrArg _ (stepLine_mapTs g p s.dedup line ts)).trans (applyResult_mapTs g s _)

/-- Neither does the wait. -/
theorem waitStep_mapTs (s : State) : waitStep (s.mapTs g) = (waitStep s).mapTs g := by
  rcases s with ⟨d, input, acks, pending, trace, free⟩
  cases pending with
  | some l =>
    cases acks with
    | zero => rfl
    | succ n => simp [waitStep, State.mapTs, State.logDurable, mapRecordTs]
  | none =>
    cases input with
    | nil => rfl
    | cons e rest => cases e <;> rfl

/-- Nor the block when it accepts a transaction. -/
theorem fetch_mapTs (s : State) :
    fetch (s.mapTs g) = (fetch s).map fun x => (mapTransactionTs g x.1, x.2.mapTs g) := by
  rcases s with ⟨d, input, acks, pending, trace, free⟩
  cases pending with
  | some l => rfl
  | none =>
    cases input with
    | nil => rfl
    | cons e rest => cases e <;> rfl

end

/-- Settles O47: a step is the wait or the transition on the transaction accepted, and each commutes with the replacement. -/
theorem timestampsOpaque : Obligations.TimestampsOpaque := by
  intro g s
  have hfetch := fetch_mapTs g s
  cases hf : fetch s with
  | none =>
    rw [hf] at hfetch
    exact ⟨waitStep s, step_of_not_fetch hf, waitStep_mapTs g s ▸ step_of_not_fetch hfetch⟩
  | some ts =>
    obtain ⟨t, s₁⟩ := ts
    rw [hf] at hfetch
    refine ⟨s₁.transition Config.params t, (step_of_fetch hf).trans (exec_decode t s₁), ?_⟩
    rw [step_of_fetch hfetch, exec_decode, transition_mapTs]

end Sys2Proof.Machine
end

section
/-! The framer: what whitespace behind a line leaves unchanged (R75), the streaming classifier (R76), and the rows that discard
their line (R71, R72, R78). -/

namespace Sys2Proof.Machine

/-! ### Whitespace behind a line -/

/-- A PacketFrame is read off the first FRAME_TAG and FRAME_HEX_LEN bytes alone (R73). -/
@[simp] theorem packetFrame_take (line : List Byte) (p : Params) :
    packetFrame (line.take p.frameLen) p = packetFrame line p := by
  refine List.map_congr_left fun k hk => ?_
  have hlt : p.frameTag.length + k < p.frameLen := Nat.add_lt_add_left (List.mem_range.mp hk) _
  rw [List.getD_eq_getElem?_getD, List.getElem?_take_of_lt hlt, ← List.getD_eq_getElem?_getD]

/-- The tag stands in the first bytes of a frame line. -/
theorem frameTag_length_le_frameLen (p : Params) : p.frameTag.length ≤ p.frameLen := Nat.le_add_right _ _

/-- The hex characters of a line are what its first bytes hold behind the tag (R43). -/
theorem take_drop_frameTag (line : List Byte) (p : Params) :
    (line.drop p.frameTag.length).take p.frameHexLen = (line.take p.frameLen).drop p.frameTag.length :=
  List.take_drop

/-- Bytes behind a line of at least the frame's length are not in its PacketFrame. -/
theorem packetFrame_append {line : List Byte} {p : Params} (hlen : p.frameLen ≤ line.length) (w : List Byte) :
    packetFrame (line ++ w) p = packetFrame line p := by
  rw [← packetFrame_take, List.take_append_of_le_length hlen, packetFrame_take]

section
variable {line w : List Byte} (hw : w.all isWS = true)
include hw

/-- Whitespace appended to a line leaves it blank or not blank. -/
theorem isBlank_append : isBlank (line ++ w) = isBlank line := by
  rw [isBlank, List.all_append, hw, Bool.and_true, isBlank]

/-- The last hex character of a frame line is no whitespace, so it does not stand in the whitespace appended. -/
theorem frameLen_le_length_of_append {p : Params} (hp : 1 ≤ p.frameHexLen) (hf : isFrameLine (line ++ w) p = true) :
    p.frameLen ≤ line.length := by
  obtain ⟨hlen, -, hhex, -⟩ := (isFrameLine_iff_params p _).mp hf
  by_contra hshort
  have hsum : p.frameLen = p.frameTag.length + p.frameHexLen := rfl
  have hlt : p.frameLen - 1 < (line ++ w).length := by omega
  have hlast : isUpperHex (line ++ w)[p.frameLen - 1] = true :=
    (all_take_drop_iff _ _ _ _).mp hhex _ _ (by omega) (by omega) (List.getElem?_eq_getElem hlt)
  have hmem : (line ++ w)[p.frameLen - 1] ∈ w := by
    rw [List.getElem_append_right (by omega)]
    exact List.getElem_mem _
  exact Bool.false_ne_true ((isWS_eq_false_of_isUpperHex hlast).symm.trans (List.all_eq_true.mp hw _ hmem))

/-- Whitespace appended to a line keeps the frame-line format and its absence. -/
theorem isFrameLine_append {p : Params} (hp : 1 ≤ p.frameHexLen) : isFrameLine (line ++ w) p = isFrameLine line p := by
  by_cases hlen : p.frameLen ≤ line.length
  · have htag : p.frameTag.length ≤ line.length := (frameTag_length_le_frameLen p).trans hlen
    rw [Bool.eq_iff_iff, isFrameLine_iff_params, isFrameLine_iff_params, take_drop_frameTag, take_drop_frameTag,
      List.take_append_of_le_length hlen, List.take_append_of_le_length htag, List.drop_append_of_le_length hlen,
      List.all_append, hw, Bool.and_true, List.length_append]
    simp only [hlen, hlen.trans (Nat.le_add_right _ _)]
  · rw [Bool.eq_false_of_not_eq_true (mt (frameLen_le_length_of_append hw hp) hlen),
      Bool.eq_false_of_not_eq_true fun hf => hlen ((isFrameLine_iff_params p line).mp hf).1]

/-- Whitespace appended to a line changes neither its class nor its PacketFrame (R75). -/
theorem classify_append {p : Params} (hp : 1 ≤ p.frameHexLen) : classify (line ++ w) p = classify line p := by
  rcases classify_cases line p with ⟨hb, hc⟩ | ⟨hb, hf, hc⟩ | ⟨hb, hf, hc⟩
  · rw [hc, classify_of_blank ((isBlank_append hw).trans hb)]
  · rw [hc, classify_of_not_blank ((isBlank_append hw).trans hb), isFrameLine_append hw hp, hf]
    rfl
  · have hlen := ((isFrameLine_iff_params p line).mp hf).1
    rw [hc, classify_of_not_blank ((isBlank_append hw).trans hb), isFrameLine_append hw hp, if_pos hf,
      packetFrame_append hlen]

end

/-- Settles O7: STEP_LINE reads a line through its class. -/
theorem terminatorInvariance : Obligations.TerminatorInvariance := by
  intro line w hw
  refine ⟨classify_append hw (by decide), fun p d ts hp => ?_⟩
  rw [stepLine, classify_append hw hp, stepLine]

/-! ### The streaming classifier -/

/-- What R76 asks a streaming classifier to know of a whole line: its first bytes and the three bits. -/
def scanOf (p : Params) (line : List Byte) : LineScan where
  buffer  := line.take p.frameLen
  allWS   := line.all isWS
  laterWS := (line.drop p.frameLen).all isWS
  short   := decide (line.length < p.frameLen)

/-- One more byte: it goes into the buffer while the line is short, and behind the buffer after that. -/
theorem scanByte_scanOf (p : Params) (line : List Byte) (c : Byte) :
    scanByte p (scanOf p line) c = scanOf p (line ++ [c]) := by
  by_cases hlt : line.length < p.frameLen
  · have hbuf : line.take p.frameLen = line := List.take_of_length_le hlt.le
    have hbuf' : (line ++ [c]).take p.frameLen = line ++ [c] := List.take_of_length_le (by simpa using hlt)
    have hlater : line.drop p.frameLen = [] := List.drop_of_length_le hlt.le
    have hlater' : (line ++ [c]).drop p.frameLen = [] := List.drop_of_length_le (by simpa using hlt)
    simp [scanByte, scanOf, hlt, hbuf, hbuf', hlater, hlater']
  · have hle : p.frameLen ≤ line.length := Nat.not_lt.mp hlt
    have hlong : ¬ line.length + 1 < p.frameLen := by omega
    simp [scanByte, scanOf, hlt, hlong, List.take_append_of_le_length hle, List.drop_append_of_le_length hle]

/-- The scan knows of a line what R76 asks, whatever the line's length. -/
theorem scan_eq_scanOf (p : Params) (line : List Byte) : line.foldl (scanByte p) (scanStart p) = scanOf p line := by
  induction line using List.reverseRecOn with
  | nil => simp [scanStart, scanOf]
  | append_singleton line c ih => rw [List.foldl_append, ih, List.foldl_cons, List.foldl_nil, scanByte_scanOf]

/-- CLASSIFY needs no more of a line than that: each of its tests reads the buffer or one of the three bits. -/
theorem scanClass_scanOf (p : Params) (line : List Byte) : scanClass (scanOf p line) p = classify line p := by
  have htag : (line.take p.frameLen).take p.frameTag.length = line.take p.frameTag.length := by
    rw [List.take_take, Nat.min_eq_left (frameTag_length_le_frameLen p)]
  simp only [scanClass, classify, scanOf, decide_eq_true_eq, htag, ← take_drop_frameTag, packetFrame_take]

/-- Settles O8: `scan_eq_scanOf`, by induction on the line, and `scanClass_scanOf`; the buffer by `scan_buffer`. -/
theorem streamingClassifierAgrees : Obligations.StreamingClassifierAgrees := by
  refine ⟨frameLen_eq, fun p line => ⟨?_, scan_buffer p line _ (Nat.zero_le _)⟩⟩
  rw [streamClassify, scan_eq_scanOf, scanClass_scanOf]

/-! ### The rows that discard their line -/

/-- Settles O21: each of the three meanings answers the state it was given. -/
theorem discardsChangeNothing : Obligations.DiscardsChangeNothing :=
  fun _ _ => ⟨fun _ => rfl, fun _ => rfl, fun _ _ => rfl⟩

end Sys2Proof.Machine
end

section
/-! The closed form of a run (R88): what one line does to the DedupState, and the state after Success j of a run. -/

namespace Sys2Proof.Machine

/-! ### A line by the fields of its Success -/

/-- A line writes the DedupState exactly on a Success, with the fields of that Success (R81, R84). -/
theorem stepLine_dedup (p : Params) (d : DedupState) (line : List Byte) (ts : Timestamp) :
    (stepLine p d line ts).dedup = (lineSuccess line ts p).elim d (successDedup p d) := by
  unfold stepLine lineSuccess
  cases classify line p with
  | blank => rfl
  | nonframe => rfl
  | frame h =>
    dsimp only
    cases decodeFrame h ts p <;> rfl

/-- A line emits a LogRecord exactly on a Success with `emit` 1 (R83). -/
theorem stepLine_log_isSome (p : Params) (d : DedupState) (line : List Byte) (ts : Timestamp) :
    (stepLine p d line ts).log.isSome = (lineSuccess line ts p).elim false (emitBit p d) := by
  unfold stepLine lineSuccess
  cases classify line p with
  | blank => rfl
  | nonframe => rfl
  | frame h =>
    dsimp only
    cases decodeFrame h ts p with
    | unrecognizedSensor => rfl
    | checksumFailure f ts' kt kc => rfl
    | success f ts' kt kc => cases he : emitBit p d f <;> simp [onOutcome, he]

/-- A line of any other outcome is not counted. -/
theorem successCount_cons_of_none {p : Params} {x : List Byte × Timestamp} {ls : List (List Byte × Timestamp)}
    (hx : lineSuccess x.1 x.2 p = none) : successCount (x :: ls) p = successCount ls p := by
  simp [successCount, hx]

/-- A Success counts as one. -/
theorem successCount_cons_of_some {p : Params} {x : List Byte × Timestamp} {ls : List (List Byte × Timestamp)} {f : Reading}
    (hx : lineSuccess x.1 x.2 p = some f) : successCount (x :: ls) p = successCount ls p + 1 := by
  simp [successCount, hx]

/-! ### The short form of `emit` -/

/-- `emit` is 1 exactly when the new skip counter is 0, if a repeat with a skip counter that is not 0 is in suppression mode:
below the trigger the counter is left alone, and so is 0 (R83). -/
theorem emitBit_eq_nextSkip_zero {p : Params} {d : DedupState} {f : Reading}
    (hmode : equalBit d f = true → d.skipCtr ≠ 0 → p.skipTrigger ≤ bumpRun p d.runLen) :
    emitBit p d f = decide (nextSkip p d f = 0) := by
  rcases counters_cases p d f with ⟨heq, -, hskip⟩ | ⟨heq, hrun, htrig, -⟩ | ⟨heq, hrun, htrig, hskip⟩
  · simp [emitBit, heq, hskip]
  · simp [emitBit, heq, hrun, inSuppression, htrig]
  · have hzero : d.skipCtr = 0 := by
      by_contra hne
      exact Nat.not_le_of_lt htrig (hmode heq hne)
    simp [emitBit, hskip, hzero, hrun, inSuppression, Nat.not_le_of_lt htrig]

/-- Settles O25: a state that meets I2 of R17 stays in suppression mode on a repeat, saturated or not. -/
theorem emitIsSkipZero : Obligations.EmitIsSkipZero := fun _ _ _ hp hI2 =>
  emitBit_eq_nextSkip_zero fun _ hne => skipTrigger_le_bumpRun hp (hI2 hne)

/-! ### The states of a run -/

/-- How many of the Successes 0 to j of a run have advanced the skip counter: those from SKIP_TRIGGER on, but never Success 0,
which is a change. -/
def advances (p : Params) (j : Nat) : Nat := j + 1 - max p.skipTrigger 1

/-- The DedupState after Success j of a run of the reading f (R88). -/
def runDedup (p : Params) (f : Reading) (j : Nat) : DedupState := ⟨true, f, j, advances p j % p.skipCount⟩

/-- d is a state in which a Success with the reading f is Success j of its run: a change for j = 0, else a repeat of
Success j - 1. -/
def AwaitsSuccess (p : Params) (f : Reading) : Nat → DedupState → Prop
  | 0, d => equalBit d f = false
  | j + 1, d => d = runDedup p f j

/-- Within a run the reading is equal to the baseline. -/
@[simp] theorem equalBit_runDedup (p : Params) (f : Reading) (j : Nat) : equalBit (runDedup p f j) f = true :=
  (equalBit_iff _ _).mpr ⟨rfl, rfl⟩

/-- Success 0 advances no skip counter. -/
theorem advances_zero (p : Params) : advances p 0 = 0 := by
  unfold advances
  omega

/-- A repeat in suppression mode is one more advance. -/
theorem advances_succ_of_le {p : Params} {j : Nat} (h : p.skipTrigger ≤ j + 1) :
    advances p (j + 1) = advances p j + 1 := by
  unfold advances
  omega

/-- Below the trigger nothing has advanced. -/
theorem advances_of_lt {p : Params} {j : Nat} (h : j < p.skipTrigger) : advances p j = 0 := by
  unfold advances
  omega

/-- The states of a run meet I2 of R17. -/
theorem skipTrigger_le_of_runDedup {p : Params} {f : Reading} {j : Nat} (hne : (runDedup p f j).skipCtr ≠ 0) :
    p.skipTrigger ≤ j := by
  by_contra hlt
  exact hne (by simp [runDedup, advances_of_lt (Nat.lt_of_not_le hlt)])

/-- The skip counter counts modulo SKIP_COUNT (R16). -/
theorem bumpSkip_mod {p : Params} (hp : 1 ≤ p.skipCount) (n : Nat) :
    bumpSkip p (n % p.skipCount) = (n + 1) % p.skipCount := by
  have hlt : n % p.skipCount < p.skipCount := Nat.mod_lt n hp
  rw [bumpSkip, ← Nat.mod_add_mod n p.skipCount 1]
  split
  next hwrap => rw [hwrap, Nat.mod_self]
  next hno => exact (Nat.mod_eq_of_lt (by omega)).symm

section
variable {p : Params} {f : Reading} (hsat : p.runLenSat = none)
include hsat

/-- The unbounded run length is incremented. -/
theorem bumpRun_of_unbounded (n : Nat) : bumpRun p n = n + 1 := by
  simp [bumpRun, hsat]

variable (hcount : 1 ≤ p.skipCount)
include hcount

/-- A repeat advances the skip counter from SKIP_TRIGGER on, and below it the counter is still 0. -/
theorem nextSkip_runDedup (j : Nat) : nextSkip p (runDedup p f j) f = advances p (j + 1) % p.skipCount := by
  have hbump : bumpRun p (runDedup p f j).runLen = j + 1 := bumpRun_of_unbounded hsat j
  rcases counters_cases p (runDedup p f j) f with ⟨heq, -⟩ | ⟨-, -, htrig, hskip⟩ | ⟨-, -, htrig, hskip⟩
  · simp at heq
  · rw [hskip, advances_succ_of_le (hbump ▸ htrig)]
    exact bumpSkip_mod hcount _
  · have hlt : j + 1 < p.skipTrigger := hbump ▸ htrig
    rw [hskip, advances_of_lt hlt, runDedup, advances_of_lt (Nat.lt_of_succ_lt hlt)]

/-- One repeat further in a run. -/
theorem successDedup_runDedup (j : Nat) : successDedup p (runDedup p f j) f = runDedup p f (j + 1) := by
  have hrun : nextRun p (runDedup p f j) f = j + 1 := by
    rw [nextRun, equalBit_runDedup, if_pos rfl]
    exact bumpRun_of_unbounded hsat j
  rw [successDedup, hrun, nextSkip_runDedup hsat hcount, runDedup]

/-- Success j leaves the state of the closed form. -/
theorem successDedup_of_awaits {j : Nat} {d : DedupState} (h : AwaitsSuccess p f j d) :
    successDedup p d f = runDedup p f j := by
  cases j with
  | zero =>
    have heq : equalBit d f = false := h
    simp [successDedup, nextRun, nextSkip, heq, runDedup, advances_zero]
  | succ j =>
    obtain rfl : d = runDedup p f j := h
    exact successDedup_runDedup hsat hcount j

/-- Success j is logged exactly when its skip counter is 0. -/
theorem emitBit_of_awaits {j : Nat} {d : DedupState} (h : AwaitsSuccess p f j d) :
    emitBit p d f = decide (advances p j % p.skipCount = 0) := by
  have hskip : nextSkip p d f = advances p j % p.skipCount :=
    congrArg DedupState.skipCtr (successDedup_of_awaits hsat hcount h)
  rw [emitBit_eq_nextSkip_zero, hskip]
  intro heq hne
  cases j with
  | zero => exact absurd heq (by simpa [AwaitsSuccess] using h)
  | succ j =>
    obtain rfl : d = runDedup p f j := h
    rw [bumpRun_of_unbounded hsat]
    exact Nat.le_succ_of_le (skipTrigger_le_of_runDedup hne)

/-- The lines of a run, with others in between, bring the block to where it awaits the next Success. -/
theorem runLines_awaits {ls : List (List Byte × Timestamp)}
    (hls : ∀ x ∈ ls, lineSuccess x.1 x.2 p = none ∨ lineSuccess x.1 x.2 p = some f) {i : Nat} {d : DedupState}
    (hd : AwaitsSuccess p f i d) : AwaitsSuccess p f (i + successCount ls p) (runLines p d ls) := by
  induction ls generalizing i d with
  | nil => exact hd
  | cons x ls ih =>
    obtain ⟨hx, hrest⟩ := List.forall_mem_cons.mp hls
    have hdedup := stepLine_dedup p d x.1 x.2
    rcases hx with hx | hx <;> rw [hx] at hdedup
    · rw [runLines, hdedup, successCount_cons_of_none hx]
      exact ih hrest hd
    · rw [runLines, hdedup, successCount_cons_of_some hx, Nat.add_comm _ 1, ← Nat.add_assoc]
      exact ih hrest (successDedup_of_awaits hsat hcount hd)

end

/-- The advances at SKIP_TRIGGER 10. -/
theorem advances_params (j : Nat) : advances Config.params j = j - 9 := by
  simp [advances, Config.params]

/-- The Successes whose advances are a multiple of 919: the first ten, and every 919th from there. -/
theorem sub_nine_mod_iff (j : Nat) : (j - 9) % 919 = 0 ↔ j ≤ 9 ∨ ∃ m, 1 ≤ m ∧ j = 9 + 919 * m := by
  constructor
  · intro hmod
    by_cases hle : j ≤ 9
    · exact .inl hle
    · exact .inr ⟨(j - 9) / 919, by omega, by omega⟩
  · rintro (hle | ⟨m, -, rfl⟩) <;> omega

/-- Settles O45: the lines of ls bring the block to where it awaits Success j (`runLines_awaits`), and what is left is the
arithmetic of `advances`. -/
theorem closedFormOfRun : Obligations.ClosedFormOfRun := by
  intro p d f ls l j hsat hcount hchange hls hj hl
  have hawaits : AwaitsSuccess p f j (runLines p d ls) := by
    have h := runLines_awaits hsat hcount hls (i := 0) hchange
    rwa [Nat.zero_add, hj] at h
  have hdedup : (stepLine p (runLines p d ls) l.1 l.2).dedup = runDedup p f j := by
    rw [stepLine_dedup, hl]
    exact successDedup_of_awaits hsat hcount hawaits
  have hlog : (stepLine p (runLines p d ls) l.1 l.2).log.isSome = true ↔ advances p j % p.skipCount = 0 := by
    rw [stepLine_log_isSome, hl, Option.elim_some, emitBit_of_awaits hsat hcount hawaits, decide_eq_true_iff]
  rw [hdedup, hlog, runDedup]
  refine ⟨fun htrig => ?_, fun htrig => ?_, ?_⟩
  · by_cases hlt : j < p.skipTrigger
    · simp [hlt, advances_of_lt hlt]
    · have hadv : advances p j = j - p.skipTrigger + 1 := by
        unfold advances
        omega
      simp [hlt, hadv]
  · have hadv : advances p j = j := by simp [advances, htrig]
    simp [hadv]
  · rintro rfl
    rw [advances_params]
    exact sub_nine_mod_iff j

end Sys2Proof.Machine
end

section
/-! STEP_LINE of R77 through the decoder and the meanings: the step of FRAME_SENSOR_2914 on each checksum, and which steps
write the DedupState and the ports. -/

namespace Sys2Proof.Machine

/-! ### The whole transition on a line -/

/-- Settles O20: `exec_decode` joins decoder, dispatch and meanings; the timestamp is replaced as in `stepLine_mapTs`. -/
theorem execIsStepLine : Obligations.ExecIsStepLine := by
  intro s line ts
  refine ⟨exec_decode (.line line ts) s, ?_, fun ts' => stepLine_mapTs (fun _ => ts') Config.params s.dedup line ts⟩
  unfold stepLine
  cases classify line with
  | blank => rfl
  | nonframe => rfl
  | frame h =>
    dsimp only
    cases decodeFrame h ts <;> rfl

/-! ### The meaning of FRAME_SENSOR_2914 -/

/-- FRAME_SENSOR_2914 runs DECODE and applies the transition on its outcome. -/
theorem exec_frameSensor2914 (h : PacketFrame) (trail : List Byte) (ts : Timestamp) (s : State) :
    exec (.frameSensor2914 h trail ts) s
      = .next (s.applyResult (onOutcome Config.params s.dedup (decodeFrame h ts))) := rfl

section
variable {h : PacketFrame} (hsensor : sensorId (unpack h) = 0x2914)
include hsensor

/-- DECODE of the supported sensor with a wrong checksum (R66). -/
theorem decodeFrame_of_checksum_ne (hck : computedChecksum (unpack h) ≠ nib (unpack h) 19) (ts : Timestamp) :
    decodeFrame h ts
      = .checksumFailure (fieldsOf (unpack h)) ts (nib (unpack h) 19) (computedChecksum (unpack h)) := by
  rw [decodeOutcomes, if_neg (not_not_intro hsensor), checksum_computed, if_neg hck, fieldsOf]

/-- DECODE of the supported sensor with a right checksum (R66). -/
theorem decodeFrame_of_checksum_eq (hck : computedChecksum (unpack h) = nib (unpack h) 19) (ts : Timestamp) :
    decodeFrame h ts = .success (fieldsOf (unpack h)) ts (nib (unpack h) 19) (computedChecksum (unpack h)) := by
  rw [decodeOutcomes, if_neg (not_not_intro hsensor), checksum_computed, if_pos hck, fieldsOf]

/-- What a Success of FRAME_SENSOR_2914 does: the DedupState of R81 and R84, one DiagRecord with status `OK`, and the LogRecord
if `emit` is 1. -/
theorem exec_frameSensor2914_of_checksum_eq (hck : computedChecksum (unpack h) = nib (unpack h) 19) (trail : List Byte)
    (ts : Timestamp) (s : State) :
    exec (.frameSensor2914 h trail ts) s = .next (s.applyResult
      ⟨successDedup Config.params s.dedup (fieldsOf (unpack h)),
        some (diagRecord Config.params .ok (fieldsOf (unpack h)) ts (nib (unpack h) 19) (computedChecksum (unpack h))),
        if emitBit Config.params s.dedup (fieldsOf (unpack h)) then some (logRecord (fieldsOf (unpack h)) ts)
          else none⟩) := by
  rw [exec_frameSensor2914, decodeFrame_of_checksum_eq hsensor hck, onOutcome]

end

/-- Settles O22: the result of a ChecksumFailure has one DiagRecord and the DedupState as it was (R79). -/
theorem checksumFailureStep : Obligations.ChecksumFailureStep := by
  intro s h trail ts hsensor hck
  rw [exec_frameSensor2914, decodeFrame_of_checksum_ne hsensor hck]
  rfl

/-! ### The counters at the values of Table R6 -/

/-- The two bounds of R81 in Table R6. -/
@[simp] theorem skipTrigger_eq : Config.params.skipTrigger = 10 := rfl
@[simp] theorem skipCount_eq : Config.params.skipCount = 919 := rfl

/-- `equal` field by field (R80). -/
theorem equalBit_mk_iff (d : DedupState) (code : BitVec 8) (total : BitVec 21) (rate : BitVec 18) :
    equalBit d ⟨code, total, rate⟩ = true ↔ d.prevValid = true ∧ code = d.previousReading.rollingCode
      ∧ total = d.previousReading.rainTotalMilli ∧ rate = d.previousReading.rainRateMilli := by
  simp [equalBit, and_assoc]

/-- The unbounded run length of Table R6 is incremented. -/
@[simp] theorem bumpRun_params (n : Nat) : bumpRun Config.params n = n + 1 := bumpRun_of_unbounded rfl n

/-- The counters after a Success at SKIP_TRIGGER 10 and SKIP_COUNT 919 (R81). -/
theorem successDedup_counters (d : DedupState) (f : Reading) :
    if equalBit d f = true then
      (successDedup Config.params d f).runLen = d.runLen + 1
      ∧ (successDedup Config.params d f).skipCtr =
          if 10 ≤ d.runLen + 1 then (if d.skipCtr + 1 = 919 then 0 else d.skipCtr + 1) else d.skipCtr
    else (successDedup Config.params d f).runLen = 0 ∧ (successDedup Config.params d f).skipCtr = 0 := by
  cases heq : equalBit d f <;> simp [successDedup, nextSkip, nextRun, bumpSkip, inSuppression, heq]

/-- `emit` of R83 at SKIP_TRIGGER 10, case by case. -/
theorem emitBit_params_iff (d : DedupState) (f : Reading) :
    emitBit Config.params d f = true
      ↔ ¬ equalBit d f = true ∨ d.runLen + 1 < 10 ∨ nextSkip Config.params d f = 0 := by
  have hbelow : d.runLen + 1 < 10 ↔ ¬ 10 ≤ d.runLen + 1 := Nat.not_le.symm
  cases heq : equalBit d f <;> simp [emitBit, heq, nextRun, inSuppression, hbelow]

/-- Settles O23: the result of a Success, with the counters of `successDedup_counters`. -/
theorem successStepState : Obligations.SuccessStepState := by
  intro s h trail ts hsensor hck
  refine ⟨_, exec_frameSensor2914_of_checksum_eq hsensor hck trail ts s, ?_⟩
  rw [applyResult_dedup]
  refine ⟨rfl, rfl, ?_, applyResult_trace _ _, applyResult_input _ _, applyResult_logAcks _ _, applyResult_freeCount _ _⟩
  simp only [← equalBit_mk_iff]
  exact successDedup_counters s.dedup (fieldsOf (unpack h))

/-- Settles O24: the LOG port is written when `emit` is 1, which `emitBit_params_iff` and, in a state that meets I2, O25
say in terms of the counters. -/
theorem successStepLog : Obligations.SuccessStepLog := by
  intro s h trail ts hsensor hck
  refine ⟨_, exec_frameSensor2914_of_checksum_eq hsensor hck trail ts s, ?_⟩
  rw [applyResult_dedup, applyResult_logPending]
  simp only [apply_ite (Option.or · s.logPending), Option.some_or, Option.none_or, ← equalBit_mk_iff]
  refine ⟨if_congr (emitBit_params_iff _ _) rfl rfl, fun hI2 => if_congr ?_ rfl rfl⟩
  rw [emitIsSkipZero Config.params s.dedup (fieldsOf (unpack h)) valid_params hI2, decide_eq_true_iff, successDedup]

/-! ### Who writes the DedupState and the ports -/

/-- Settles O38: a wait keeps the DedupState; of the transactions RST clears it, and a line writes it only on a Success. -/
theorem onlyRstAndSuccessWriteDedup : Obligations.OnlyRstAndSuccessWriteDedup := by
  intro s s' hstep hne
  rcases step_wait_or_transition hstep with rfl | ⟨t, rest, hidle, hinput, rfl⟩
  · exact absurd (waitStep_dedup s) hne
  · refine ⟨hidle, ?_⟩
    cases t with
    | rst => exact .inl ⟨rest, hinput, rfl⟩
    | line line ts =>
      rw [transition_line, applyResult_dedup, withInput_dedup, stepLine_dedup] at hne ⊢
      cases hf : lineSuccess line ts with
      | none => exact absurd (by rw [hf]; rfl) hne
      | some f => exact .inr ⟨line, ts, rest, f, hinput, hf, rfl⟩

/-- Settles O43: the wait and the transition of an idle block each keep the order. -/
theorem portOrderKept : Obligations.PortOrderKept := by
  intro s s' hs hstep
  rcases step_wait_or_transition hstep with rfl | ⟨t, rest, hidle, -, rfl⟩
  · exact waitStep_portsOrdered hs
  · exact transition_portsOrdered (s := s.withInput rest) (hs.congr rfl rfl) hidle Config.params t

end Sys2Proof.Machine
end

section
/-! The log text (R86, R87): `dec` against the decimal digits of Mathlib, three fractional digits, and one line a record. -/

namespace Sys2Proof.Machine

/-! ### Decimal digits -/

/-- The character of a digit stands that many places behind '0'. -/
theorem digitChar_toNat {d : Nat} (hd : d < 10) : (digitChar d).toNat = 0x30 + d := by
  rw [digitChar, BitVec.toNat_ofNat]
  omega

/-- The character of a digit is '0' to '9'. -/
theorem digitChar_inRange {d : Nat} (hd : d < 10) : 0x30 ≤ digitChar d ∧ digitChar d ≤ 0x39 := by
  have hchar := digitChar_toNat hd
  bv_omega

/-- Only the digit 0 is spelt '0'. -/
theorem eq_zero_of_digitChar {d : Nat} (hd : d < 10) (h : digitChar d = 0x30) : d = 0 := by
  have hchar := digitChar_toNat hd
  rw [h] at hchar
  simpa using hchar

/-- With enough divisions allowed, `decBounded` spells the decimal digits, most significant first. -/
theorem decBounded_eq_digits {k n : Nat} (hn : n ≠ 0) (hk : n ≤ k) :
    decBounded k n = (Nat.digits 10 n).reverse.map digitChar := by
  induction k generalizing n with
  | zero => exact absurd (Nat.le_zero.mp hk) hn
  | succ k ih =>
    rw [decBounded]
    split
    next hlt => simp [Nat.digits_of_lt 10 n hn hlt]
    next hge =>
      rw [ih (by omega) (by omega), Nat.digits_def' (by decide) (Nat.pos_of_ne_zero hn), List.reverse_cons,
        List.map_append, List.map_singleton]

/-- `dec` spells the decimal digits of a number that is not 0. -/
theorem dec_eq_digits {n : Nat} (hn : n ≠ 0) : dec n = (Nat.digits 10 n).reverse.map digitChar :=
  decBounded_eq_digits hn le_rfl

/-- 0 is spelt "0". -/
theorem dec_zero : dec 0 = [0x30] := rfl

/-- `dec` consists of decimal digits. -/
theorem dec_inRange (n : Nat) : ∀ c ∈ dec n, 0x30 ≤ c ∧ c ≤ 0x39 := by
  rcases eq_or_ne n 0 with rfl | hn
  · decide
  · rw [dec_eq_digits hn]
    intro c hc
    obtain ⟨d, hd, rfl⟩ := List.mem_map.mp hc
    exact digitChar_inRange (Nat.digits_lt_base (by decide) (List.mem_reverse.mp hd))

/-- Reading the digits of `dec` gives the number back. -/
theorem dec_readBack (n : Nat) : (dec n).foldl (fun acc c => 10 * acc + (c.toNat - 0x30)) 0 = n := by
  rcases eq_or_ne n 0 with rfl | hn
  · decide
  · rw [dec_eq_digits hn, List.foldl_map, List.foldl_reverse]
    calc (Nat.digits 10 n).foldr (fun d acc => 10 * acc + ((digitChar d).toNat - 0x30)) 0
        = (Nat.digits 10 n).foldr (fun d acc => d + 10 * acc) 0 := by
          refine List.foldr_ext _ _ _ fun d hd acc => ?_
          rw [digitChar_toNat (Nat.digits_lt_base (by decide) hd)]
          omega
      _ = Nat.ofDigits 10 (Nat.digits 10 n) := (Nat.ofDigits_eq_foldr 10 _).symm
      _ = n := Nat.ofDigits_digits 10 n

/-- `dec` has no leading zero: the last of Mathlib's digits, the most significant one, is not 0. -/
theorem dec_head {n : Nat} (hn : n ≠ 0) : (dec n).head? ≠ some 0x30 := by
  have hne : Nat.digits 10 n ≠ [] := Nat.digits_ne_nil_iff_ne_zero.mpr hn
  rw [dec_eq_digits hn, List.head?_map, List.head?_reverse, List.getLast?_eq_getLast_of_ne_nil hne, Option.map_some]
  intro hzero
  have hlt : (Nat.digits 10 n).getLast hne < 10 := Nat.digits_lt_base (by decide) (List.getLast_mem hne)
  exact Nat.getLast_digit_ne_zero 10 hn (eq_zero_of_digitChar hlt (Option.some.inj hzero))

/-- `fixed3` with the FIXED_SCALE that R7 fixes: the three digits of v mod 1000 behind the point. -/
theorem fixed3_of_scale {p : Params} (hp : p.fixedScale = 1000) (v : Nat) :
    fixed3 v p = dec (v / 1000)
      ++ [0x2E, digitChar (v % 1000 / 100), digitChar (v % 1000 / 10 % 10), digitChar (v % 1000 % 10)] := by
  rw [fixed3, hp]

/-- Settles O50: `dec` by the digits of Mathlib, `fixed3` by the three digits of v mod 1000, and the examples by evaluation. -/
theorem fixedPointText : Obligations.FixedPointText := by
  refine ⟨fun n => ⟨dec_inRange n, dec_readBack n, dec_head, dec_zero⟩, fun p v hp => ?_,
    by decide, by decide, by decide, by decide⟩
  exact ⟨v % 1000 / 100, v % 1000 / 10 % 10, v % 1000 % 10, by omega, by omega, by omega, by omega,
    fixed3_of_scale hp v⟩

/-! ### The lines of the log -/

/-- What becomes durable by an acknowledgement is the waiting LogRecord. -/
theorem durableLog_logDurable {s : State} {r : LogRecord} (hr : s.logPending = some r) :
    s.logDurable.durableLog = s.durableLog ++ [r] := by
  simp [State.durableLog, logDurable_trace, hr, PortRecord.log?]

/-- Settles O51: the line by its definition, and the text as the lines of the durable records. -/
theorem logLineText : Obligations.LogLineText := by
  intro p fmt
  refine ⟨fun r => by simp [logLine], fun s r hr => ?_⟩
  rw [State.logText, durableLog_logDurable hr, List.flatMap_append, List.flatMap_singleton, State.logText]

end Sys2Proof.Machine
end

section
/-! The outcomes of a line (R89, R90), and the step of a block that accepts no transaction: idle, or with a report of the line
source at its input (R91, R98 to R100). -/

namespace Sys2Proof.Machine

/-! ### The six outcomes -/

/-- The rows of Table R89 in the order of R90, the two rows of a Success in one: the checks that lead to an outcome, the
outcome, and what STEP_LINE answers. -/
theorem lineOutcome_cases (p : Params) (d : DedupState) (line : List Byte) (ts : Timestamp) {b : NibbleBuffer}
    (hbuf : unpack (packetFrame line p) p = b) :
    (isBlank line = true ∧ lineOutcome p d line ts = .blank ∧ stepLine p d line ts = ⟨d, none, none⟩)
    ∨ (isBlank line = false ∧ isFrameLine line p = false ∧ lineOutcome p d line ts = .framingMismatch
        ∧ stepLine p d line ts = ⟨d, none, none⟩)
    ∨ (isBlank line = false ∧ isFrameLine line p = true ∧ sensorId b p ≠ p.sensorIdRain
        ∧ lineOutcome p d line ts = .unrecognizedSensor ∧ stepLine p d line ts = ⟨d, none, none⟩)
    ∨ (isBlank line = false ∧ isFrameLine line p = true ∧ sensorId b p = p.sensorIdRain
        ∧ computedChecksum b p ≠ nib b 19 p ∧ lineOutcome p d line ts = .checksumFailure
        ∧ stepLine p d line ts
            = ⟨d, some (diagRecord p .checksumError (fieldsOf b p) ts (nib b 19 p) (computedChecksum b p)), none⟩)
    ∨ (isBlank line = false ∧ isFrameLine line p = true ∧ sensorId b p = p.sensorIdRain
        ∧ computedChecksum b p = nib b 19 p
        ∧ lineOutcome p d line ts = (if emitBit p d (fieldsOf b p) then .successLogged else .successSuppressed)
        ∧ stepLine p d line ts
            = ⟨successDedup p d (fieldsOf b p),
                some (diagRecord p .ok (fieldsOf b p) ts (nib b 19 p) (computedChecksum b p)),
                if emitBit p d (fieldsOf b p) then some (logRecord (fieldsOf b p) ts) else none⟩) := by
  subst hbuf
  unfold lineOutcome stepLine
  rcases classify_cases line p with ⟨hb, hc⟩ | ⟨hb, hf, hc⟩ | ⟨hb, hf, hc⟩ <;> rw [hc]
  · exact .inl ⟨hb, rfl, rfl⟩
  · exact .inr (.inl ⟨hb, hf, rfl, rfl⟩)
  · dsimp only
    rcases decodeFrame_cases (packetFrame line p) ts p with ⟨hs, ho⟩ | ⟨hs, hck, ho⟩ | ⟨hs, hck, ho⟩ <;> rw [ho]
    · exact .inr (.inr (.inl ⟨hb, hf, of_decide_eq_false hs, rfl, rfl⟩))
    · exact .inr (.inr (.inr (.inl ⟨hb, hf, of_decide_eq_true hs, hck, rfl, rfl⟩)))
    · exact .inr (.inr (.inr (.inr ⟨hb, hf, of_decide_eq_true hs, hck, rfl, rfl⟩)))

/-- The supported sensor of Table R6. -/
@[simp] theorem sensorIdRain_eq : Config.params.sensorIdRain = 0x2914 := rfl

/-- A DiagRecord has the status it is made with (R82). -/
@[simp] theorem diagRecord_status (p : Params) (st : DiagStatus) (f : Reading) (ts : Timestamp) (ckTx ckCalc : Nibble) :
    (diagRecord p st f ts ckTx ckCalc).status = st := rfl

/-- Settles O29: the checks of each row of `lineOutcome_cases` decide its code, and its answer has the effects of the row. -/
theorem outcomeTable : Obligations.OutcomeTable := by
  intro p d line ts
  rcases lineOutcome_cases p d line ts rfl with ⟨hb, ho, hr⟩ | ⟨hb, hf, ho, hr⟩ | ⟨hb, hf, hs, ho, hr⟩
    | ⟨hb, hf, hs, hck, ho, hr⟩ | ⟨hb, hf, hs, hck, ho, hr⟩ <;> rw [ho, hr]
  · simp [hb, LineOutcome.code]
  · simp [hb, hf, LineOutcome.code]
  · simp [hb, hf, hs, LineOutcome.code]
  · simp [hb, hf, hs, hck, LineOutcome.code]
  · cases emitBit p d (fieldsOf (unpack (packetFrame line p) p) p) <;> simp [hb, hf, hs, hck, LineOutcome.code]

/-! ### No fault, and no transaction at the input -/

/-- Settles O30: a transaction accepted is a transition, which answers a next state (`exec_decode`), and so does the wait. -/
theorem everyStepHasNext : Obligations.EveryStepHasNext := by
  intro s
  cases hf : fetch s with
  | none => exact ⟨_, step_of_not_fetch hf⟩
  | some ts => exact ⟨_, (step_of_fetch hf).trans (exec_decode ts.1 ts.2)⟩

/-- With no transaction presented the block accepts none (R98). -/
theorem fetch_of_no_transaction {s : State} (h : ∀ t rest, s.input ≠ .transaction t :: rest) : fetch s = none := by
  refine Option.eq_none_iff_forall_ne_some.mpr fun ⟨t, s'⟩ hf => ?_
  obtain ⟨-, rest, hinput, -⟩ := (fetch_eq_some_iff s t s').mp hf
  exact h t rest hinput

/-- An idle block with nothing at the input stays as it is (R98). -/
theorem step_of_idle_empty {s : State} (hidle : s.logPending = none) (hinput : s.input = []) : step s = .next s := by
  rw [step_of_not_fetch (fetch_of_no_transaction (by simp [hinput]))]
  simp [waitStep, hidle, hinput]

/-- A run from a state that a step leaves as it is stays there. -/
theorem run_of_step_self {M : Host.Core} {s : M.State} (h : M.step s = .next s) (n : Nat) : M.run n s = .next s := by
  induction n with
  | zero => rfl
  | succ n ih => rw [run_succ_of_step h, ih]

/-- Settles O33, by induction on the number of steps (`run_of_step_self`): each one leaves the state as it is. -/
theorem idleHoldsState : Obligations.IdleHoldsState := fun _ hidle hinput n =>
  run_of_step_self (M := core) (step_of_idle_empty hidle hinput) n

/-- An idle block takes a report off the input (R99, R100). -/
theorem step_of_report {s : State} {e : HostEvent} {rest : List HostEvent} (he : ∀ t, e ≠ .transaction t)
    (hidle : s.logPending = none) (hinput : s.input = e :: rest) : step s = .next (s.withInput rest) := by
  rw [step_of_not_fetch (fetch_of_no_transaction (by simp [hinput, he]))]
  cases e with
  | transaction t => exact absurd rfl (he t)
  | endOfStream => simp [waitStep, hidle, hinput]
  | transportError => simp [waitStep, hidle, hinput]

/-- Settles O34: both reports are taken off the input, and only that field is written. -/
theorem sourceReportsChangeNothing : Obligations.SourceReportsChangeNothing := fun _ _ hidle =>
  ⟨step_of_report (fun _ => nofun) hidle, step_of_report (fun _ => nofun) hidle⟩

end Sys2Proof.Machine
end

section
/-! RST (R102), and the block held by a LogRecord (R105, R106): with no acknowledgement to come it stays as it is; with one,
its record is durable first, and only then does it take the next transaction. -/

namespace Sys2Proof.Machine

/-! ### RST -/

/-- RST runs RESET (R102). -/
theorem exec_rst (s : State) : exec .rst s = .next s.resetDedup := exec_decode .rst s

/-- After a second RST only previous_reading and the count of free values can differ: each RST draws a free value. -/
theorem exec_rst_resetDedup (s : State) :
    exec .rst s.resetDedup = .next { s.resetDedup with
      dedup := { s.resetDedup.dedup with previousReading := Config.freeReading s.resetDedup.freeCount }
      freeCount := s.resetDedup.freeCount + 1 } := exec_rst s.resetDedup

/-- With no previous reading every reading is a change, so that the next Success is logged (R80, R83). -/
theorem emitBit_of_not_valid {d : DedupState} (h : d.prevValid = false) (p : Params) (f : Reading) :
    emitBit p d f = true := by
  simp [emitBit, equalBit_of_not_valid h]

/-- Settles O27: RESET's fields, `emitBit_of_not_valid` for the Success after it, and `exec_rst_resetDedup` for a second
RST. -/
theorem rstStep : Obligations.RstStep := by
  intro s
  refine ⟨s.resetDedup, exec_rst s, rfl, rfl, rfl, rfl, resetDedup_trace s, resetDedup_logPending s, resetDedup_input s,
    resetDedup_logAcks s, resetDedup_freeCount s, emitBit_of_not_valid rfl, _, _, exec_rst_resetDedup s⟩

/-- An idle block takes a RST presented and clears the DedupState (R21, R102). -/
theorem step_of_idle_rst {s : State} {rest : List HostEvent} (hidle : s.logPending = none)
    (hinput : s.input = .transaction .rst :: rest) : step s = .next (s.withInput rest).resetDedup :=
  (step_of_fetch (fetch_of_idle hidle hinput)).trans (exec_rst _)

/-! ### The durability wait -/

/-- A held block with no acknowledgement to come stays as it is (R106). -/
theorem step_of_unacknowledged {s : State} {r : LogRecord} (hr : s.logPending = some r) (hacks : s.logAcks = 0) :
    step s = .next s := by
  rw [step_of_not_fetch (fetch_of_held hr)]
  simp [waitStep, hr, hacks]

/-- Settles O31: the two steps of a held block, without and with an acknowledgement to come. -/
theorem logDurabilityHold : Obligations.LogDurabilityHold := fun _ _ hr =>
  ⟨step_of_unacknowledged hr, fun _ hn => step_of_acknowledged hr hn⟩

/-- Settles O32, by induction on the number of steps (`run_of_step_self`): each one leaves the held block as it is. -/
theorem noAckHoldsForEver : Obligations.NoAckHoldsForEver := by
  intro s hheld hacks n
  obtain ⟨r, hr⟩ := Option.ne_none_iff_exists'.mp hheld
  exact run_of_step_self (M := core) (step_of_unacknowledged hr hacks) n

/-- Settles O35: the first step takes the acknowledgement and leaves the block idle, with the RST still presented; the second
takes the RST. -/
theorem rstAfterHeldStep : Obligations.RstAfterHeldStep := by
  intro s r n rest hr hn hinput
  have hfirst := step_of_acknowledged hr hn
  exact ⟨_, _, hfirst, step_of_idle_rst rfl hinput, rfl, rfl, rfl, rfl, rfl, rfl, rfl, rfl, rfl⟩

end Sys2Proof.Machine
end

section
/-! The encoding: the decoder and the encoder undo each other (R43, R44, R54), and the decoder answers only instructions of
their row's class. -/

namespace Sys2Proof.Machine

/-! ### A frame's bytes are a frame line -/

section
variable {h : PacketFrame} {trail : List Byte} {p : Params}

/-- What the encoder writes for a frame has the format of R43. -/
theorem isFrameLine_frameBytes (hl : h.length = p.frameHexLen) (hw : trail.all isWS = true) :
    isFrameLine (frameBytes h trail p) p = true := by
  have hlen : p.frameLen ≤ (frameBytes h trail p).length := by
    rw [frameBytes_length, hl]
    exact Nat.le_add_right _ _
  have hhex : ((frameBytes h trail p).drop p.frameTag.length).take p.frameHexLen = h.map hexChar := by
    rw [frameBytes, List.append_assoc, List.drop_left' rfl, List.take_left' (by rw [List.length_map, hl])]
  refine (isFrameLine_iff_params p _).mpr ⟨hlen, frameBytes_take h trail p, ?_, ?_⟩
  · rw [hhex]
    simp
  · rwa [frameBytes_drop h trail p hl]

/-- A frame's bytes with at least one value are not blank, whatever the tag: a hex character is no whitespace. -/
theorem isBlank_frameBytes (hne : h ≠ []) : isBlank (frameBytes h trail p) = false := by
  obtain ⟨v, hv⟩ := List.exists_mem_of_ne_nil h hne
  have hmem : hexChar v ∈ frameBytes h trail p :=
    List.mem_append_left _ (List.mem_append_right _ (List.mem_map_of_mem hv))
  exact List.all_eq_false.mpr ⟨_, hmem, by simp [isWS_eq_false_of_isUpperHex (isUpperHex_hexChar v)]⟩

/-- The decoder reads a frame's values and its trailing whitespace back from its bytes, and tests its sensor. -/
theorem decode_frameBytes (hp : 1 ≤ p.frameHexLen) (hl : h.length = p.frameHexLen) (hw : trail.all isWS = true)
    (ts : Timestamp) :
    decode (.line (frameBytes h trail p) ts) p =
      if isSupported (unpack h p) p then .frameSensor2914 h trail ts else .frameUnrecognized h trail ts := by
  have hne : h ≠ [] := List.ne_nil_of_length_pos (hl ▸ hp)
  rw [decode_of_isFrameLine (isBlank_frameBytes hne) (isFrameLine_frameBytes hl hw),
    packetFrame_frameBytes h trail p hl, frameBytes_drop h trail p hl]

end

/-! ### Decoding an encoding -/

/-- The round trip on every row: a raw line by the class its row checks, a frame by `decode_frameBytes`. -/
theorem decode_encode {p : Params} (hp : 1 ≤ p.frameHexLen) {i : Instr} (hi : i.wf p = true) :
    decode (encode i p) p = i := by
  cases i with
  | rst => rfl
  | lineBlank line ts => exact decode_of_isBlank hi ts p
  | lineNonframe line ts =>
    obtain ⟨hb, hf⟩ : isBlank line = false ∧ isFrameLine line p = false := by simpa [Instr.wf] using hi
    exact decode_of_not_isFrameLine hb hf ts
  | frameSensor2914 h trail ts =>
    simp only [Instr.wf, Bool.and_eq_true, decide_eq_true_eq] at hi
    obtain ⟨⟨hl, hw⟩, hs⟩ := hi
    exact (decode_frameBytes hp hl hw ts).trans (if_pos hs)
  | frameUnrecognized h trail ts =>
    simp only [Instr.wf, Bool.and_eq_true, decide_eq_true_eq, Bool.not_eq_true'] at hi
    obtain ⟨⟨hl, hw⟩, hs⟩ := hi
    exact (decode_frameBytes hp hl hw ts).trans (if_neg (Bool.not_eq_true _ ▸ hs))

/-- Settles O1: `decode_encode`, at the values of Table R6 and at every configuration. -/
theorem decodeOfEncode : Obligations.DecodeOfEncode :=
  ⟨fun _ hi => decode_encode (p := Config.params) (by decide) hi, fun _ _ hp hi => decode_encode hp hi⟩

/-- Settles O9: each word is the encoding of its instruction, which is well-formed, so `decode_encode` reads it back. -/
theorem knownWordsDecode : Obligations.KnownWordsDecode := by
  have hword {t : Transaction} {i : Instr} (ht : encode i = t) (hi : i.wf = true) : decode t = i :=
    ht ▸ decode_encode (p := Config.params) (by decide) hi
  exact ⟨rfl, hword rfl (by decide), hword rfl (by decide), hword (by decide) (by decide), hword (by decide) (by decide)⟩

/-! ### Encoding and checking a decoding -/

/-- What the decoder can answer on a line, class by class (R54). -/
theorem decode_line_cases (line : List Byte) (ts : Timestamp) (p : Params) :
    (isBlank line = true ∧ decode (.line line ts) p = .lineBlank line ts)
    ∨ (isBlank line = false ∧ isFrameLine line p = false ∧ decode (.line line ts) p = .lineNonframe line ts)
    ∨ (isFrameLine line p = true ∧ isSupported (unpack (packetFrame line p) p) p = true
        ∧ decode (.line line ts) p = .frameSensor2914 (packetFrame line p) (line.drop p.frameLen) ts)
    ∨ (isFrameLine line p = true ∧ isSupported (unpack (packetFrame line p) p) p = false
        ∧ decode (.line line ts) p = .frameUnrecognized (packetFrame line p) (line.drop p.frameLen) ts) := by
  rcases classify_cases line p with ⟨hb, -⟩ | ⟨hb, hf, -⟩ | ⟨hb, hf, -⟩
  · exact .inl ⟨hb, decode_of_isBlank hb ts p⟩
  · exact .inr (.inl ⟨hb, hf, decode_of_not_isFrameLine hb hf ts⟩)
  · have hd := decode_of_isFrameLine hb hf ts
    cases hs : isSupported (unpack (packetFrame line p) p) p with
    | true => exact .inr (.inr (.inl ⟨hf, rfl, by rw [hd, if_pos hs]⟩))
    | false => exact .inr (.inr (.inr ⟨hf, rfl, by rw [hd, hs]; rfl⟩))

/-- The PacketFrame of a line long enough holds the value of each character behind the tag (R45). -/
theorem packetFrame_eq_map_hexval {line : List Byte} {p : Params} (hlen : p.frameLen ≤ line.length) :
    packetFrame line p = ((line.drop p.frameTag.length).take p.frameHexLen).map hexval := by
  have hsum : p.frameLen = p.frameTag.length + p.frameHexLen := rfl
  refine List.ext_getElem (by simp; omega) fun k hk _ => ?_
  rw [packetFrame_length] at hk
  have hlt : p.frameTag.length + k < line.length := by omega
  simp [packetFrame, List.getElem?_eq_getElem hlt]

/-- A frame line is its own spelling: the tag, its upper-case hex characters, and what stands behind them (R43, R44). -/
theorem frameBytes_packetFrame {line : List Byte} {p : Params} (hf : isFrameLine line p = true) :
    frameBytes (packetFrame line p) (line.drop p.frameLen) p = line := by
  obtain ⟨hlen, htag, hhex, -⟩ := (isFrameLine_iff_params p line).mp hf
  have hspell : (packetFrame line p).map hexChar = (line.drop p.frameTag.length).take p.frameHexLen := by
    rw [packetFrame_eq_map_hexval hlen, List.map_map]
    exact (List.map_congr_left fun c hc => hexChar_hexval (List.all_eq_true.mp hhex c hc)).trans (List.map_id _)
  calc frameBytes (packetFrame line p) (line.drop p.frameLen) p
      = line.take p.frameTag.length ++ (line.drop p.frameTag.length).take p.frameHexLen ++ line.drop p.frameLen := by
        rw [frameBytes, hspell, htag]
    _ = line.take p.frameLen ++ line.drop p.frameLen := by rw [← List.take_add, Params.frameLen]
    _ = line := List.take_append_drop _ _

/-- Settles O2: a discarded line is kept whole, and a frame line is its own spelling. -/
theorem encodeOfDecode : Obligations.EncodeOfDecode := by
  intro p t
  cases t with
  | rst => rfl
  | line line ts =>
    rcases decode_line_cases line ts p with ⟨-, hd⟩ | ⟨-, -, hd⟩ | ⟨hf, -, hd⟩ | ⟨hf, -, hd⟩
    · rw [hd, encode]
    · rw [hd, encode]
    · rw [hd, encode, frameBytes_packetFrame hf]
    · rw [hd, encode, frameBytes_packetFrame hf]

/-- Settles O3: the class of the line is the check of the row that the decoder answers. -/
theorem decodeGivesWellFormed : Obligations.DecodeGivesWellFormed := by
  intro p t
  cases t with
  | rst => rfl
  | line line ts =>
    rcases decode_line_cases line ts p with ⟨hb, hd⟩ | ⟨hb, hf, hd⟩ | ⟨hf, hs, hd⟩ | ⟨hf, hs, hd⟩
    · exact hd ▸ hb
    · simp [hd, Instr.wf, hb, hf]
    · obtain ⟨-, -, -, hw⟩ := (isFrameLine_iff_params p line).mp hf
      simp [hd, Instr.wf, hs, hw]
    · obtain ⟨-, -, -, hw⟩ := (isFrameLine_iff_params p line).mp hf
      simp [hd, Instr.wf, hs, hw]

end Sys2Proof.Machine
end
